-- ==== Sys2Proof/Word.lean ====
section
/-! DEFINITION. The words PDRE computes with (00_scope.md R12, R13) and their plainest arithmetic. -/

namespace Sys2Proof

/-- One byte of the frame buffer (10_state.md R31). -/
abbrev Byte := BitVec 8

/-- A 16-bit frame field or host-register field (00_scope.md R12(b)). -/
abbrev Half := BitVec 16

/-- A host register (00_scope.md R12(a)). -/
abbrev Word := BitVec 32

/-- `ceil8` of 00_scope.md R13: the next multiple of 8. -/
def ceil8 (x : Nat) : Nat := (x + 7) / 8 * 8

end Sys2Proof
end

