-- ==== Sys2Proof/Config.lean ====
section
/-! DEFINITION. What an implementation of PDRE fixes (00_scope.md R8 to R11) and the values the spec leaves open. -/

namespace Sys2Proof

/-- Which level of the reset signal asserts reset (00_scope.md R11). -/
inductive ResetPolarity where
  | activeHigh
  | activeLow
deriving DecidableEq, Repr

/-- `RESET_KIND`, 00_scope.md R11. -/
structure ResetKind where
  polarity : ResetPolarity
  /-- Reset takes effect at a clock edge only. The model has no clock, so no step reads it (log entry 17). -/
  synchronous : Bool
deriving DecidableEq, Repr

/-- The OPEN parameters. They are data in the state, so that every statement holds for each of them (log entry 1).
LATENCY is the schedule's choice (log entry 2). -/
structure Params where
  /-- `BUF_SIZE`, 00_scope.md R8. -/
  bufSize : Nat
  /-- `BLOCK_BASE`, 00_scope.md R9. -/
  blockBase : Nat
  /-- `RESET_KIND`, 00_scope.md R11. -/
  resetKind : ResetKind
deriving DecidableEq, Repr

/-- The constraints of 00_scope.md R8 on `BUF_SIZE`. -/
def Params.wf (p : Params) : Bool :=
  decide (48 ≤ p.bufSize) && decide (p.bufSize ≤ 65536) && decide (p.bufSize % 8 = 0)

/-- The example parameters of 95_test_vectors.md section 0 (`BUF_SIZE = 2048`); the base and the reset
signal are this model's. DESIGN CHOICE, log entry 1: unsafe for a statement about `State.reset` only. -/
def Params.example2048 : Params :=
  { bufSize := 2048, blockBase := 0, resetKind := { polarity := .activeHigh, synchronous := true } }

/-- The byte that reset number `epoch` leaves at buffer offset `offset`: any value (10_state.md R60;
93_implementation_defined.md U1). No body: nothing can be proved of its value (log entry 4). -/
opaque Config.resetByte : (epoch : Nat) → (offset : Nat) → Byte

/-- The value of draw number `n`: any value (60_exceptions.md R247(c)). A host read of LMAC_HI or LMAC_LO before
its first write, or of the buffer while BUSY, takes the next one (log entry 7). -/
opaque Config.draw : (n : Nat) → Word

end Sys2Proof
end

