-- ==== Sys2Proof/Syntax.lean ====
section
/-! DEFINITION. The rows of spec/opcode_table.json, one constructor each. -/

namespace Sys2Proof

/-- Everything PDRE selects its behaviour by: the commands a host writes to CMD (30_encoding.md R101, R102) and the
frame keys PROCESS routes on (30_encoding.md R115 to R118). PDRE has no immediates (R104). -/
inductive Instr where
  /-- PROCESS, CMD = 1 (41_dispatch.md R160). -/
  | process
  /-- CSUM, CMD = 2 (40_checksum.md R149). -/
  | csum
  /-- CSUM_CONSTRUCT, CMD = 3 (40_checksum.md R150). -/
  | csumConstruct
  /-- BADCMD, every other CMD value; `value` is the word written (30_encoding.md R102). -/
  | badcmd (value : Word)
  /-- ETH_IPV4, EtherType 0x0800: the IPv4 dispatcher (41_dispatch.md R164). -/
  | ethIpv4
  /-- ETH_ARP, EtherType 0x0806: the ARP responder (42_reply.md R200). -/
  | ethArp
  /-- ARP_REQUEST, the ARP key of 30_encoding.md R118: the ARP rewrite (42_reply.md R202 to R207). -/
  | arpRequest
  /-- IPV4_ICMP, protocol 1: the ICMP echo responder (42_reply.md R210). -/
  | ipv4Icmp
  /-- IPV4_UDP, protocol 17: the UDP inspector (41_dispatch.md R170). -/
  | ipv4Udp
  /-- ICMP_ECHO_REQUEST, type 8 code 0: the echo validation and rewrite (42_reply.md R213 to R223). -/
  | icmpEchoRequest
deriving DecidableEq, Repr

/-- Where the bits that select an instruction stand: the `format` column of spec/opcode_table.json. -/
inductive KeySite where
  /-- The 32-bit word written to CMD. -/
  | command
  /-- `BE16(14)` (30_encoding.md R115). -/
  | etherType
  /-- `BE64(16)` (30_encoding.md R118). -/
  | arpHeader
  /-- `buf[25]` (30_encoding.md R116). -/
  | ipProtocol
  /-- `BE16(L4)` (30_encoding.md R117). -/
  | icmpHeader
deriving DecidableEq, Repr

/-- The site whose bits select the instruction. -/
def Instr.site : Instr → KeySite
  | .process => .command
  | .csum => .command
  | .csumConstruct => .command
  | .badcmd _ => .command
  | .ethIpv4 => .etherType
  | .ethArp => .etherType
  | .arpRequest => .arpHeader
  | .ipv4Icmp => .ipProtocol
  | .ipv4Udp => .ipProtocol
  | .icmpEchoRequest => .icmpHeader

/-- How many bytes the bits of a site are. -/
def KeySite.bytes : KeySite → Nat
  | .command => 4
  | .etherType => 2
  | .arpHeader => 8
  | .ipProtocol => 1
  | .icmpHeader => 2

end Sys2Proof
end

