-- ==== Sys2Proof/Machine/State.lean ====
section
/-! DEFINITION. The state of PDRE as plain data (10_state.md R30) and the state after reset (10_state.md R60). -/

namespace Sys2Proof.Machine

/-- The control state of 10_state.md R52. -/
inductive Fsm where
  | idle
  | busy
deriving DecidableEq, Repr

/-- The result codes of 60_exceptions.md R230; STATUS.RESULT takes no other value. Their numbers are
`ResultCode.code` (Machine/Flags.lean). -/
inductive ResultCode where
  | none
  | okArpReply
  | okIcmpReply
  | okUdpInspected
  | okCsum
  | okCsumConstruct
  | eRxlen
  | eTrunc
  | eEthertype
  | eNoLmac
  | eArpOp
  | eArpHtype
  | eArpPtype
  | eArpHlen
  | eArpPlen
  | eIpCsum
  | eIpProto
  | eIcmpType
  | eIcmpCode
  | eIcmpLen
  | eIcmpCsum
  | eUdpLen
  | eBadcmd
  | eRange
  | eFieldRange
deriving DecidableEq, Repr

/-- The host registers of 10_state.md R33, in the order of its table. -/
inductive Reg where
  | cmd
  | status
  | rxLen
  | txLen
  | lmacHi
  | lmacLo
  | csumOff
  | csumNwords
  | csumField
  | csumResult
  | errInfo
  | errAux
  | inSrcIp
  | inDstIp
  | inSport
  | inDport
  | inUlen
  | inRport
  | inMagicLo
  | inMagicHi
  | inAsportLo
  | inAsportHi
  | inAdportLo
  | inAdportHi
  | inWcount
  | inPayloadOff
  | bufSizeReg
deriving DecidableEq, Repr

/-- The frame buffer (10_state.md R31): the bytes written since the last reset, at strictly rising offsets. An
offset that is not listed holds no written byte; what it reads as is `Memory.byte` (Machine/Ops.lean), the value
reset number `epoch` left there (log entry 4). -/
structure Memory where
  /-- The written bytes, offsets strictly rising (`Memory.wf`). -/
  cells : List Host.Cell
  /-- The number of resets so far; the model's own field. -/
  epoch : Nat
deriving DecidableEq, Repr

/-- The latched operand set `L` (10_state.md R53). -/
structure Latched where
  cmd : Word
  rxLen : Half
  csumOff : Half
  csumN : Half
  csumField : Half
  /-- `L.lmac`, six bytes in wire order, the first one in the high bits (10_state.md R44; 30_encoding.md R104). -/
  lmac : BitVec 48
  lmacValid : Bool
deriving DecidableEq, Repr

/-- The inspection registers (10_state.md R48). -/
structure Inspect where
  srcIp : Word
  dstIp : Word
  sport : Half
  dport : Half
  ulen : Half
  rport : Half
  magicLo : Word
  magicHi : Word
  asportLo : Word
  asportHi : Word
  adportLo : Word
  adportHi : Word
  wcount : Half
  payloadOff : Half
deriving DecidableEq, Repr

/-- One event of the environment. Bus addresses are absolute: BLOCK_BASE plus a window offset (30_encoding.md
R121). A size is the number of bytes; sizes other than 1, 2 and 4 are refused (20_memory.md R84). -/
inductive Event where
  /-- A host write; the low `8 * size` bits of `data` are written (20_memory.md R82). -/
  | write (size : Nat) (addr : Nat) (data : Word)
  /-- A host read. -/
  | read (size : Nat) (addr : Nat)
  /-- The engine's turn: while BUSY, the instant of completion (70_reset_and_hazards.md R272). -/
  | engine
  /-- The platform drives its reset signal to a level, which asserts or deasserts reset as RESET_KIND says (00_scope.md
  R11; 70_reset_and_hazards.md R260). -/
  | resetLine (level : Bool)
deriving DecidableEq, Repr

/-- What the bus answered to the last host access; the model's own field (log entry 16). -/
inductive Reply where
  /-- No access so far. -/
  | none
  /-- A read answered these bits; a narrow read answers in the low lanes (20_memory.md R82). -/
  | data (value : Word)
  /-- A write was taken, or ignored as its rule says. -/
  | written
  /-- The access was refused (20_memory.md R84; 70_reset_and_hazards.md R262, R265). -/
  | refused
  /-- The access was to an address outside PDRE's window; what answers it is no part of PDRE (log entry 10). -/
  | elsewhere
deriving DecidableEq, Repr

/-- What a finished command leaves, gathered so that it takes effect at one instant (60_exceptions.md R233). -/
structure Completion where
  code : ResultCode
  info : Word
  aux : Word
  txLen : BitVec 17
  /-- The command ended with `finish_tx` (00_scope.md R16). -/
  tx : Bool
  /-- The buffer with every write the command made along the way. -/
  buf : Memory
  /-- The new CSUM_RESULT, if the command writes it. -/
  csum : Option Half
  /-- The new inspection registers, if the command writes them. -/
  inspect : Option Inspect
deriving DecidableEq, Repr

/-- The machine. INVENTORY.md lists every field with its rule and its value after reset. -/
structure State where
  /-- The OPEN parameters (log entry 1); no step changes them. -/
  params : Params
  /-- The frame buffer, 10_state.md R31. -/
  buf : Memory
  /-- 10_state.md R52; STATUS.BUSY is `fsm = busy` (R36). -/
  fsm : Fsm
  /-- `L`, 10_state.md R53. -/
  latched : Latched
  /-- 10_state.md R54. -/
  lmacHiSet : Bool
  /-- 10_state.md R54. -/
  lmacLoSet : Bool
  /-- STATUS.DONE, 10_state.md R37. -/
  done : Bool
  /-- STATUS.TXREQ, 10_state.md R38. -/
  txReq : Bool
  /-- STATUS.OVR, 10_state.md R39. -/
  ovr : Bool
  /-- STATUS.ERR, 10_state.md R40. -/
  err : Bool
  /-- STATUS.RESULT, 10_state.md R41. -/
  result : ResultCode
  /-- RX_LEN, 10_state.md R42. -/
  rxLen : Half
  /-- TX_LEN, 10_state.md R43. -/
  txLen : BitVec 17
  /-- LMAC_HI, 10_state.md R44. -/
  lmacHi : Half
  /-- LMAC_LO, 10_state.md R44. -/
  lmacLo : Word
  /-- CSUM_OFF, 10_state.md R45. -/
  csumOff : Half
  /-- CSUM_NWORDS, 10_state.md R45. -/
  csumNwords : Half
  /-- CSUM_FIELD, 10_state.md R45. -/
  csumField : Half
  /-- CSUM_RESULT, 10_state.md R46. -/
  csumResult : Half
  /-- ERR_INFO, 10_state.md R47. -/
  errInfo : Word
  /-- ERR_AUX, 10_state.md R47. -/
  errAux : Word
  /-- The IN_ registers, 10_state.md R48. -/
  inspect : Inspect
  /-- Reset is asserted, 70_reset_and_hazards.md R260. -/
  inReset : Bool
  /-- `hazard_fault`, 10_state.md R55. -/
  hazardFault : Bool
  /-- The environment's pending events, the next one first; the model's own field (log entry 2). -/
  schedule : List Event
  /-- The bus's last answer; the model's own field (log entry 16). -/
  reply : Reply
  /-- Free values taken by host reads so far; the model's own field (log entry 7). -/
  draws : Nat
deriving DecidableEq, Repr

/-- Why a step stops the machine. There is no reason: PDRE has no traps (60_exceptions.md R237), and every step has
an outcome (60_exceptions.md R247(d)). The spec's own faults are the record `State.hazardFault`. -/
inductive Fault where
deriving DecidableEq, Repr

/-- Why an instruction has no meaning. -/
inductive Refusal where
  /-- An arm of `exec` that has no meaning yet; no arm has it now. Safe. -/
  | notModelled (mnemonic : String)
deriving DecidableEq, Repr

/-- `L` after reset. The spec leaves it unspecified and never read (10_state.md R53): DESIGN CHOICE zero, log
entry 6. -/
def Latched.reset : Latched :=
  { cmd := 0#32, rxLen := 0#16, csumOff := 0#16, csumN := 0#16, csumField := 0#16, lmac := 0#48, lmacValid := false }

/-- The inspection registers after reset (10_state.md R60). -/
def Inspect.reset : Inspect :=
  { srcIp := 0#32, dstIp := 0#32, sport := 0#16, dport := 0#16, ulen := 0#16, rport := 0#16,
    magicLo := 0#32, magicHi := 0#32, asportLo := 0#32, asportHi := 0#32, adportLo := 0#32, adportHi := 0#32,
    wcount := 0#16, payloadOff := 0#16 }

/-- The machine right after its first reset (10_state.md R60), for any parameters. LMAC_HI and LMAC_LO are
unspecified there: DESIGN CHOICE zero, log entry 5; a host read before the first write does not show it. -/
def State.resetWith (p : Params) : State :=
  { params := p, buf := { cells := [], epoch := 0 }, fsm := .idle, latched := Latched.reset,
    lmacHiSet := false, lmacLoSet := false,
    done := false, txReq := false, ovr := false, err := false, result := .none,
    rxLen := 0#16, txLen := 0#17, lmacHi := 0#16, lmacLo := 0#32,
    csumOff := 0#16, csumNwords := 0#16, csumField := 0#16, csumResult := 0#16,
    errInfo := 0#32, errAux := 0#32, inspect := Inspect.reset,
    inReset := false, hazardFault := false, schedule := [], reply := .none, draws := 0 }

/-- The machine right after reset, at the example parameters (log entry 1). -/
def State.reset : State := State.resetWith Params.example2048

end Sys2Proof.Machine
end

