-- ==== Sys2Proof/Machine/Flags.lean ====
section
/-! DEFINITION. The result codes' numbers and the STATUS flags (60_exceptions.md R230; 10_state.md R35 to R41). -/

namespace Sys2Proof.Machine

/-- The number of a result code (60_exceptions.md R230). -/
def ResultCode.code : ResultCode → Byte
  | .none => 0x00#8
  | .okArpReply => 0x01#8
  | .okIcmpReply => 0x02#8
  | .okUdpInspected => 0x03#8
  | .okCsum => 0x04#8
  | .okCsumConstruct => 0x05#8
  | .eRxlen => 0x10#8
  | .eTrunc => 0x11#8
  | .eEthertype => 0x12#8
  | .eNoLmac => 0x13#8
  | .eArpOp => 0x20#8
  | .eArpHtype => 0x21#8
  | .eArpPtype => 0x22#8
  | .eArpHlen => 0x23#8
  | .eArpPlen => 0x24#8
  | .eIpCsum => 0x30#8
  | .eIpProto => 0x31#8
  | .eIcmpType => 0x40#8
  | .eIcmpCode => 0x41#8
  | .eIcmpLen => 0x42#8
  | .eIcmpCsum => 0x43#8
  | .eUdpLen => 0x50#8
  | .eBadcmd => 0x60#8
  | .eRange => 0x61#8
  | .eFieldRange => 0x62#8

/-- A code of 0x10 or greater is an error (10_state.md R40; 60_exceptions.md R230). -/
def ResultCode.isError (c : ResultCode) : Bool := decide (0x10#8 ≤ c.code)

/-- STATUS.BUSY (10_state.md R36). -/
def State.busy (s : State) : Bool := decide (s.fsm = .busy)

/-- STATUS as the host reads it: the reserved bits read 0 (10_state.md R35). -/
def statusWord (s : State) : Word :=
  0#16 ++ s.result.code ++ 0#3 ++ BitVec.ofBool s.err ++ BitVec.ofBool s.ovr ++ BitVec.ofBool s.txReq ++
    BitVec.ofBool s.done ++ BitVec.ofBool s.busy

end Sys2Proof.Machine
end

