-- ==== Sys2Proof/Machine/Ops.lean ====
section
/-! DEFINITION. The named operations over the frame buffer (00_scope.md R14; 20_memory.md R81, R86), and how a
command ends: `raise` reports an error, `finish` and `finishTx` a success, `complete` applies either at one instant
(00_scope.md R16; 60_exceptions.md R233). There is no return from an error (60_exceptions.md R238): the next
acceptance clears the report (`accept`, Machine/Operands.lean). -/

namespace Sys2Proof.Machine

/-- The byte written at an offset, if any. -/
def findCell : List Host.Cell → Nat → Option Byte
  | [], _ => none
  | (k, v) :: rest, a => if k = a then some v else findCell rest a

/-- Write one byte, keeping the offsets rising. -/
def insertCell : List Host.Cell → Nat → Byte → List Host.Cell
  | [], a, b => [(a, b)]
  | (k, v) :: rest, a, b =>
    if a < k then (a, b) :: (k, v) :: rest
    else if a = k then (a, b) :: rest
    else (k, v) :: insertCell rest a b

/-- Every offset is at least `low`, and the offsets rise strictly. -/
def risingFrom : Nat → List Host.Cell → Bool
  | _, [] => true
  | low, (k, _) :: rest => decide (low ≤ k) && risingFrom (k + 1) rest

/-- The canonical form: offsets strictly rising. An offset that is not listed holds no written byte, so no entry
can repeat one. -/
def Memory.wf (m : Memory) : Bool := risingFrom 0 m.cells

/-- No byte is held at or past `size` (10_state.md R31). -/
def Memory.within (size : Nat) (m : Memory) : Bool := m.cells.all fun c => decide (c.1 < size)

/-- `buf[a]` (00_scope.md R14). An offset not written since the last reset reads as the byte that reset left there:
any value (10_state.md R60), and the same one until it is written. DESIGN CHOICE, log entry 4. -/
def Memory.byte (m : Memory) (a : Nat) : Byte := (findCell m.cells a).getD (Config.resetByte m.epoch a)

/-- `buf[a] <- b`. -/
def Memory.setByte (m : Memory) (a : Nat) (b : Byte) : Memory := { m with cells := insertCell m.cells a b }

/-- `BE16(a)`: the byte at the lower offset is the high one (00_scope.md R14; 20_memory.md R81). -/
def Memory.be16 (m : Memory) (a : Nat) : Half := m.byte a ++ m.byte (a + 1)

/-- `BE32(a)`. -/
def Memory.be32 (m : Memory) (a : Nat) : Word := m.be16 a ++ m.be16 (a + 2)

/-- `BE64(a)`. -/
def Memory.be64 (m : Memory) (a : Nat) : BitVec 64 := m.be32 a ++ m.be32 (a + 4)

/-- `MemWrite(a, 2, v)` (00_scope.md R14). -/
def Memory.setBE16 (m : Memory) (a : Nat) (v : Half) : Memory :=
  (m.setByte a (v.extractLsb' 8 8)).setByte (a + 1) (v.extractLsb' 0 8)

/-- `Bytes(a, n)`: a byte sequence without conversion (00_scope.md R14). -/
def Memory.bytes (m : Memory) (a : Nat) : Nat → List Byte
  | 0 => []
  | n + 1 => m.byte a :: m.bytes (a + 1) n

/-- `SetBytes(a, s)` (00_scope.md R14). -/
def Memory.setBytes (m : Memory) (a : Nat) : List Byte → Memory
  | [] => m
  | b :: rest => (m.setByte a b).setBytes (a + 1) rest

/-- The `n` bytes at `a` as a host reads them: byte `a + k` in bits `[8k+7 : 8k]` (20_memory.md R82). -/
def Memory.lanes (m : Memory) (a : Nat) : Nat → Word
  | 0 => 0#32
  | n + 1 => (m.byte a).zeroExtend 32 ||| (m.lanes (a + 1) n <<< 8)

/-- The bytes of a host write of `n` bytes: lane `k` is bits `[8k+7 : 8k]` (20_memory.md R82). -/
def laneBytes (data : Word) : Nat → List Byte
  | 0 => []
  | n + 1 => data.extractLsb' 0 8 :: laneBytes (data >>> 8) n

/-- `finish(code, info, aux)` on buffer `m`: TX_LEN is 0 and nothing is to be transmitted (00_scope.md R16). -/
def finish (m : Memory) (code : ResultCode) (info aux : Word) : Completion :=
  { code := code, info := info, aux := aux, txLen := 0#17, tx := false, buf := m, csum := none, inspect := none }

/-- `finish_tx(code, len)` on buffer `m` (00_scope.md R16). -/
def finishTx (m : Memory) (code : ResultCode) (len : Nat) : Completion :=
  { code := code, info := 0#32, aux := 0#32, txLen := BitVec.ofNat 17 len, tx := true, buf := m, csum := none,
    inspect := none }

/-- `raise E_X(info, aux)`: the command ends there, with the buffer as at acceptance (00_scope.md R16;
60_exceptions.md R234). -/
def raise (s : State) (code : ResultCode) (info aux : Word) : Completion := finish s.buf code info aux

/-- `need(k)`: wire bytes `0 .. k` were received, or E_TRUNC (41_dispatch.md R161). -/
def need (s : State) (k : Nat) (next : Completion) : Completion :=
  if s.latched.rxLen.toNat < k then raise s .eTrunc (s.latched.rxLen.zeroExtend 32) (BitVec.ofNat 32 k) else next

/-- The frame fits the buffer, or E_RXLEN (41_dispatch.md R160, R161). -/
def rxLenGate (s : State) (next : Completion) : Completion :=
  if s.latched.rxLen.toNat > s.params.bufSize - 2 then
    raise s .eRxlen (s.latched.rxLen.zeroExtend 32) (BitVec.ofNat 32 (s.params.bufSize - 2))
  else next

/-- Completion: every effect of the command at once; STATUS.OVR keeps its value (60_exceptions.md R233). -/
def complete (s : State) (c : Completion) : State :=
  { s with
    fsm := .idle
    done := true
    txReq := c.tx
    err := c.code.isError
    result := c.code
    errInfo := c.info
    errAux := c.aux
    txLen := c.txLen
    buf := c.buf
    csumResult := c.csum.getD s.csumResult
    inspect := c.inspect.getD s.inspect }

/-- The state with these events pending (log entry 2). -/
def State.withSchedule (s : State) (es : List Event) : State := { s with schedule := es }

end Sys2Proof.Machine
end

