-- ==== Sys2Proof/Machine/Operands.lean ====
section
/-! DEFINITION. Where operands come from: the register map (10_state.md R33), the operands a command latches at its
acceptance (10_state.md R34, R53), and the frame fields a stage reads (30_encoding.md R105 to R114). -/

namespace Sys2Proof.Machine

/-- The window offset of a register (10_state.md R33). -/
def Reg.offset : Reg → Nat
  | .cmd => 0x000
  | .status => 0x004
  | .rxLen => 0x008
  | .txLen => 0x00C
  | .lmacHi => 0x010
  | .lmacLo => 0x014
  | .csumOff => 0x018
  | .csumNwords => 0x01C
  | .csumField => 0x020
  | .csumResult => 0x024
  | .errInfo => 0x028
  | .errAux => 0x02C
  | .inSrcIp => 0x030
  | .inDstIp => 0x034
  | .inSport => 0x038
  | .inDport => 0x03C
  | .inUlen => 0x040
  | .inRport => 0x044
  | .inMagicLo => 0x048
  | .inMagicHi => 0x04C
  | .inAsportLo => 0x050
  | .inAsportHi => 0x054
  | .inAdportLo => 0x058
  | .inAdportHi => 0x05C
  | .inWcount => 0x060
  | .inPayloadOff => 0x064
  | .bufSizeReg => 0x068

/-- The registers of 10_state.md R33 in the order of its table. -/
def Reg.all : List Reg :=
  [.cmd, .status, .rxLen, .txLen, .lmacHi, .lmacLo, .csumOff, .csumNwords, .csumField, .csumResult, .errInfo,
    .errAux, .inSrcIp, .inDstIp, .inSport, .inDport, .inUlen, .inRport, .inMagicLo, .inMagicHi, .inAsportLo,
    .inAsportHi, .inAdportLo, .inAdportHi, .inWcount, .inPayloadOff, .bufSizeReg]

/-- The register at a register-space offset; `none` is a reserved offset (10_state.md R50). -/
def regAt (off : Nat) : Option Reg := Reg.all.find? fun r => decide (r.offset = off)

/-- The local MAC address in wire order (10_state.md R44). -/
def lmacValue (s : State) : BitVec 48 := s.lmacHi ++ s.lmacLo

/-- The six bytes of a MAC address, the first on the wire first (10_state.md R44). -/
def macBytes (v : BitVec 48) : List Byte :=
  [v.extractLsb' 40 8, v.extractLsb' 32 8, v.extractLsb' 24 8, v.extractLsb' 16 8, v.extractLsb' 8 8,
    v.extractLsb' 0 8]

/-- The operands as they stand when the command word `v` is accepted (10_state.md R34; 30_encoding.md R104). -/
def latchOperands (s : State) (v : Word) : Latched :=
  { cmd := v, rxLen := s.rxLen, csumOff := s.csumOff, csumN := s.csumNwords, csumField := s.csumField,
    lmac := lmacValue s, lmacValid := s.lmacHiSet && s.lmacLoSet }

/-- Acceptance of the command word `v` (10_state.md R34): STATUS becomes BUSY alone, and the report of the command
before is cleared (60_exceptions.md R238). -/
def accept (s : State) (v : Word) : State :=
  { s with
    latched := latchOperands s v
    fsm := .busy
    done := false
    txReq := false
    ovr := false
    err := false
    result := .none
    errInfo := 0#32
    errAux := 0#32
    txLen := 0#17 }

/-- `IHL = buf[16][3:0]` (30_encoding.md R108). -/
def ihl (m : Memory) : Nat := (m.byte 16).toNat % 16

/-- `L4 = 16 + 4*IHL` (30_encoding.md R108). -/
def l4 (m : Memory) : Nat := 16 + 4 * ihl m

/-- `TL = BE16(18)` (30_encoding.md R107). -/
def totalLength (m : Memory) : Nat := (m.be16 18).toNat

/-- `N_icmp = (TL - 4*IHL) div 2` (30_encoding.md R113). -/
def icmpWords (m : Memory) : Nat := (totalLength m - 4 * ihl m) / 2

/-- `UL = BE16(L4 + 4)` (30_encoding.md R110). -/
def udpLength (m : Memory) : Nat := (m.be16 (l4 m + 4)).toNat

/-- The received-length checks PROCESS has made before a stage that an EtherType selects (41_dispatch.md R160 to
R162). A frame-key row runs behind them, so that it reads received bytes only. DESIGN CHOICE, log entry 14. -/
def ethEntry (s : State) (next : Completion) : Completion := rxLenGate s (need s 14 next)

/-- The same before a stage that an IPv4 protocol number selects (41_dispatch.md R164). -/
def ipv4Entry (s : State) (next : Completion) : Completion :=
  ethEntry s (need s 34 (need s (14 + 4 * ihl s.buf) next))

end Sys2Proof.Machine
end

