-- ==== Sys2Proof/Machine/Bus.lean ====
section
/-! DEFINITION. What the host and the platform do to PDRE: register and buffer accesses (20_memory.md R80 to R89;
10_state.md R33 to R50, R58; 70_reset_and_hazards.md R265 to R267) and reset (70_reset_and_hazards.md R260 to
R262). -/

namespace Sys2Proof.Machine

/-- The size of the window (20_memory.md R80). -/
def windowSize : Nat := 0x20000

/-- The window offset where buffer space starts (20_memory.md R80). -/
def bufferBase : Nat := 0x10000

/-- The window offset of a bus address, if it is PDRE's (00_scope.md R9; 20_memory.md R80). -/
def windowOffset (p : Params) (addr : Nat) : Option Nat :=
  if p.blockBase ≤ addr ∧ addr < p.blockBase + windowSize then some (addr - p.blockBase) else none

/-- A well-formed access (20_memory.md R83): register space takes aligned 32-bit accesses, buffer space naturally
aligned 8-, 16- and 32-bit ones. -/
def accessWf (size off : Nat) : Bool :=
  if off < bufferBase then decide (size = 4) && decide (off % 4 = 0)
  else (decide (size = 1) || decide (size = 2) || decide (size = 4)) && decide (off % size = 0)

/-- A refused access: no effect but `hazard_fault` (20_memory.md R84; 10_state.md R55). -/
def refuseAccess (s : State) : State := { s with hazardFault := true, reply := .refused }

/-- The value the host reads from a register, undefined bits 0, and how many free values it takes (10_state.md R33,
R44, R49, R58; free values: log entry 7). -/
def regRead (s : State) : Reg → Word × Nat
  | .cmd => (0#32, 0)
  | .status => (statusWord s, 0)
  | .rxLen => (s.rxLen.zeroExtend 32, 0)
  | .txLen => (s.txLen.zeroExtend 32, 0)
  | .lmacHi =>
    if s.lmacHiSet then (s.lmacHi.zeroExtend 32, 0) else (((Config.draw s.draws).extractLsb' 0 16).zeroExtend 32, 1)
  | .lmacLo => if s.lmacLoSet then (s.lmacLo, 0) else (Config.draw s.draws, 1)
  | .csumOff => (s.csumOff.zeroExtend 32, 0)
  | .csumNwords => (s.csumNwords.zeroExtend 32, 0)
  | .csumField => (s.csumField.zeroExtend 32, 0)
  | .csumResult => (s.csumResult.zeroExtend 32, 0)
  | .errInfo => (s.errInfo, 0)
  | .errAux => (s.errAux, 0)
  | .inSrcIp => (s.inspect.srcIp, 0)
  | .inDstIp => (s.inspect.dstIp, 0)
  | .inSport => (s.inspect.sport.zeroExtend 32, 0)
  | .inDport => (s.inspect.dport.zeroExtend 32, 0)
  | .inUlen => (s.inspect.ulen.zeroExtend 32, 0)
  | .inRport => (s.inspect.rport.zeroExtend 32, 0)
  | .inMagicLo => (s.inspect.magicLo, 0)
  | .inMagicHi => (s.inspect.magicHi, 0)
  | .inAsportLo => (s.inspect.asportLo, 0)
  | .inAsportHi => (s.inspect.asportHi, 0)
  | .inAdportLo => (s.inspect.adportLo, 0)
  | .inAdportHi => (s.inspect.adportHi, 0)
  | .inWcount => (s.inspect.wcount.zeroExtend 32, 0)
  | .inPayloadOff => (s.inspect.payloadOff.zeroExtend 32, 0)
  | .bufSizeReg => (((BitVec.ofNat 17 s.params.bufSize)).zeroExtend 32, 0)

/-- A write to CMD: acceptance in IDLE, ignored with OVR set while BUSY (10_state.md R34). -/
def cmdWrite (s : State) (v : Word) : State :=
  match s.fsm with
  | .busy => { s with ovr := true }
  | .idle => accept s v

/-- A host write to a register: RW registers keep their defined bits, read-only ones ignore it (10_state.md R33,
R44). -/
def regWrite (s : State) (v : Word) : Reg → State
  | .cmd => cmdWrite s v
  | .rxLen => { s with rxLen := v.extractLsb' 0 16 }
  | .lmacHi => { s with lmacHi := v.extractLsb' 0 16, lmacHiSet := true }
  | .lmacLo => { s with lmacLo := v, lmacLoSet := true }
  | .csumOff => { s with csumOff := v.extractLsb' 0 16 }
  | .csumNwords => { s with csumNwords := v.extractLsb' 0 16 }
  | .csumField => { s with csumField := v.extractLsb' 0 16 }
  | .status | .txLen | .csumResult | .errInfo | .errAux | .inSrcIp | .inDstIp | .inSport | .inDport | .inUlen
  | .inRport | .inMagicLo | .inMagicHi | .inAsportLo | .inAsportHi | .inAdportLo | .inAdportHi | .inWcount
  | .inPayloadOff | .bufSizeReg => s

/-- A well-formed write in register space: a reserved offset ignores it (20_memory.md R85). -/
def regSpaceWrite (s : State) (off : Nat) (v : Word) : State :=
  match regAt off with
  | some r => { regWrite s v r with reply := .written }
  | none => { s with reply := .written }

/-- A well-formed read in register space: a reserved offset reads 0 (20_memory.md R85). -/
def regSpaceRead (s : State) (off : Nat) : State :=
  match regAt off with
  | some r => { s with reply := .data (regRead s r).1, draws := s.draws + (regRead s r).2 }
  | none => { s with reply := .data 0#32 }

/-- A well-formed write in buffer space: ignored at or past BUF_SIZE, BUSY or not (20_memory.md R85;
93_implementation_defined.md U16; DEDUCED, log entry 15), a hazard in the buffer while BUSY (70_reset_and_hazards.md
R265), else the bytes of the lanes (20_memory.md R82). -/
def bufSpaceWrite (s : State) (size i : Nat) (v : Word) : State :=
  if s.params.bufSize ≤ i then { s with reply := .written }
  else
    match s.fsm with
    | .busy => refuseAccess s
    | .idle => { s with buf := s.buf.setBytes i (laneBytes v size), reply := .written }

/-- The `size` low bytes of a free value: one unconstrained value per byte (70_reset_and_hazards.md R266). -/
def drawLanes (n size : Nat) : Word := BitVec.ofNat 32 ((Config.draw n).toNat % 2 ^ (8 * size))

/-- A well-formed read in buffer space: 0 at or past BUF_SIZE, BUSY or not (20_memory.md R85;
93_implementation_defined.md U16; DEDUCED, log entry 15), a free value in the buffer while BUSY
(70_reset_and_hazards.md R266), else the bytes in their lanes. -/
def bufSpaceRead (s : State) (size i : Nat) : State :=
  if s.params.bufSize ≤ i then { s with reply := .data 0#32 }
  else
    match s.fsm with
    | .busy => { s with reply := .data (drawLanes s.draws size), draws := s.draws + 1 }
    | .idle => { s with reply := .data (s.buf.lanes i size) }

/-- A host write of `size` bytes at window offset `off`: refused during reset (70_reset_and_hazards.md R262) or when
it is not well formed (20_memory.md R84). -/
def hostWrite (s : State) (size off : Nat) (v : Word) : State :=
  if s.inReset || !accessWf size off then refuseAccess s
  else if off < bufferBase then regSpaceWrite s off v
  else bufSpaceWrite s size (off - bufferBase) v

/-- A host read of `size` bytes at window offset `off`. -/
def hostRead (s : State) (size off : Nat) : State :=
  if s.inReset || !accessWf size off then refuseAccess s
  else if off < bufferBase then regSpaceRead s off
  else bufSpaceRead s size (off - bufferBase)

/-- A bus access at an absolute address: `access` at its window offset. An address outside the window is no access
to PDRE, which stays as it is (20_memory.md R80; 60_exceptions.md R247(d); log entry 10). -/
def busAccess (s : State) (addr : Nat) (access : Nat → State) : State :=
  match windowOffset s.params addr with
  | some off => access off
  | none => { s with reply := .elsewhere }

/-- Every register at its value of 10_state.md R60. The parameters, `hazard_fault` (log entry 8), the schedule and
the model's counters are not reset; the buffer is `assertReset`'s. -/
def clearRegisters (s : State) : State :=
  { State.resetWith s.params with
    buf := s.buf
    inReset := s.inReset
    hazardFault := s.hazardFault
    schedule := s.schedule
    reply := s.reply
    draws := s.draws }

/-- Reset asserted: a running command is abandoned, and every buffer byte is any value afterwards
(70_reset_and_hazards.md R260, R261). -/
def assertReset (s : State) : State :=
  { clearRegisters s with inReset := true, buf := { cells := [], epoch := s.buf.epoch + 1 } }

/-- Reset deasserted: the first access afterwards can be a command (70_reset_and_hazards.md R260). -/
def deassertReset (s : State) : State := { s with inReset := false }

/-- Whether a level of the reset signal asserts reset (00_scope.md R11). -/
def assertsReset (k : ResetKind) (level : Bool) : Bool :=
  match k.polarity with
  | .activeHigh => level
  | .activeLow => !level

/-- The reset signal driven to a level (00_scope.md R11; 70_reset_and_hazards.md R260). -/
def driveReset (s : State) (level : Bool) : State :=
  if assertsReset s.params.resetKind level then assertReset s else deassertReset s

end Sys2Proof.Machine
end

