-- ==== Sys2Proof/WellFormed.lean ====
section
/-! DEFINITION. Which instructions some word encodes. -/

namespace Sys2Proof

/-- `BADCMD` is the catch-all row: its word is none of the three commands (30_encoding.md R102). Every other row
has no operand, so it has nothing to check. -/
def Instr.wellFormed : Instr → Bool
  | .badcmd value => decide (value ≠ 1#32) && decide (value ≠ 2#32) && decide (value ≠ 3#32)
  | .process => true
  | .csum => true
  | .csumConstruct => true
  | .ethIpv4 => true
  | .ethArp => true
  | .arpRequest => true
  | .ipv4Icmp => true
  | .ipv4Udp => true
  | .icmpEchoRequest => true

end Sys2Proof
end

