-- ==== Sys2Proof/Decode.lean ====
section
/-! DEFINITION. From bits to instructions and back (30_encoding.md R100 to R102, R115 to R119). The bytes of a
command word stand in the host's little-endian lanes (20_memory.md R82), those of a frame key in network order
(20_memory.md R81). -/

namespace Sys2Proof

/-- The command words of 30_encoding.md R101. -/
def cmdProcess : Word := 0x00000001#32
@[inherit_doc cmdProcess] def cmdCsum : Word := 0x00000002#32
@[inherit_doc cmdProcess] def cmdCsumConstruct : Word := 0x00000003#32

/-- The EtherType keys of 30_encoding.md R115. -/
def keyEthIpv4 : Half := 0x0800#16
@[inherit_doc keyEthIpv4] def keyEthArp : Half := 0x0806#16

/-- The ARP key of 30_encoding.md R118: HTYPE 1, PTYPE 0x0800, HLEN 6, PLEN 4, OP 1. -/
def keyArpRequest : BitVec 64 := 0x0001080006040001#64

/-- The IPv4 protocol keys of 30_encoding.md R116. -/
def keyIpv4Icmp : Byte := 1#8
@[inherit_doc keyIpv4Icmp] def keyIpv4Udp : Byte := 17#8

/-- The ICMP key of 30_encoding.md R117: type 8, code 0. -/
def keyIcmpEcho : Half := 0x0800#16

/-- Why bits are no instruction at their site. Safe: PROCESS never asks for more than the sites give, and answers
each of the four unsupported keys with the result code its rule names. -/
inductive DecodeError where
  /-- The site does not hold this many bytes; raised by `decodeAt` for such a list only. -/
  | wrongLength
  /-- Neither EtherType key; PROCESS answers E_ETHERTYPE (41_dispatch.md R162). -/
  | unsupportedEtherType
  /-- Not the ARP key; PROCESS answers the first failing field's code (42_reply.md R201). -/
  | notArpRequest
  /-- Neither protocol key; PROCESS answers E_IP_PROTO (41_dispatch.md R168). -/
  | unsupportedProtocol
  /-- Not the ICMP key; PROCESS answers E_ICMP_TYPE or E_ICMP_CODE (42_reply.md R211, R212). -/
  | notEchoRequest
deriving DecidableEq, Repr

/-- The command a CMD word selects: only the full 32-bit value does (30_encoding.md R100 to R102). -/
def decodeCommand (v : Word) : Instr :=
  if v = cmdProcess then .process
  else if v = cmdCsum then .csum
  else if v = cmdCsumConstruct then .csumConstruct
  else .badcmd v

/-- The stage an EtherType selects (30_encoding.md R115). -/
def decodeEtherType (v : Half) : Except DecodeError Instr :=
  if v = keyEthIpv4 then .ok .ethIpv4
  else if v = keyEthArp then .ok .ethArp
  else .error .unsupportedEtherType

/-- The stage the first eight ARP header bytes select (30_encoding.md R118). -/
def decodeArpHeader (v : BitVec 64) : Except DecodeError Instr :=
  if v = keyArpRequest then .ok .arpRequest else .error .notArpRequest

/-- The stage an IPv4 protocol number selects (30_encoding.md R116). -/
def decodeIpProtocol (v : Byte) : Except DecodeError Instr :=
  if v = keyIpv4Icmp then .ok .ipv4Icmp
  else if v = keyIpv4Udp then .ok .ipv4Udp
  else .error .unsupportedProtocol

/-- The stage the ICMP type and code select (30_encoding.md R117). -/
def decodeIcmpHeader (v : Half) : Except DecodeError Instr :=
  if v = keyIcmpEcho then .ok .icmpEchoRequest else .error .notEchoRequest

/-- The decoder on the bytes of a site, lowest address first; total on any list of bytes. -/
def decodeAt : KeySite → List Byte → Except DecodeError Instr
  | .command, [b0, b1, b2, b3] => .ok (decodeCommand (b3 ++ b2 ++ b1 ++ b0))
  | .etherType, [b0, b1] => decodeEtherType (b0 ++ b1)
  | .arpHeader, [b0, b1, b2, b3, b4, b5, b6, b7] =>
    decodeArpHeader (b0 ++ b1 ++ b2 ++ b3 ++ b4 ++ b5 ++ b6 ++ b7)
  | .ipProtocol, [b0] => decodeIpProtocol b0
  | .icmpHeader, [b0, b1] => decodeIcmpHeader (b0 ++ b1)
  | _, _ => .error .wrongLength

/-- The `n` low bytes of a number, least significant first: the host's lanes (20_memory.md R82). -/
def littleBytes : Nat → Nat → List Byte
  | 0, _ => []
  | n + 1, w => BitVec.ofNat 8 w :: littleBytes n (w / 256)

/-- The `n` low bytes of a number, most significant first: network order (20_memory.md R81). -/
def bigBytes (n w : Nat) : List Byte := (littleBytes n w).reverse

/-- The bytes of an instruction's word at its site, lowest address first (30_encoding.md R101, R115 to R118). -/
def encode : Instr → List Byte
  | .process => littleBytes 4 cmdProcess.toNat
  | .csum => littleBytes 4 cmdCsum.toNat
  | .csumConstruct => littleBytes 4 cmdCsumConstruct.toNat
  | .badcmd value => littleBytes 4 value.toNat
  | .ethIpv4 => bigBytes 2 keyEthIpv4.toNat
  | .ethArp => bigBytes 2 keyEthArp.toNat
  | .arpRequest => bigBytes 8 keyArpRequest.toNat
  | .ipv4Icmp => bigBytes 1 keyIpv4Icmp.toNat
  | .ipv4Udp => bigBytes 1 keyIpv4Udp.toNat
  | .icmpEchoRequest => bigBytes 2 keyIcmpEcho.toNat

/-- The site and the stored bytes of a table word of `nbits` bits. Sixteen bits are read as an EtherType, because
ETH_IPV4 and ICMP_ECHO_REQUEST have the same word 0x0800 and only the site tells them apart. DESIGN CHOICE, log
entry 12. -/
def tableBytes (nbits w : Nat) : Option (KeySite × List Byte) :=
  if nbits = 32 then some (.command, littleBytes 4 w)
  else if nbits = 16 then some (.etherType, bigBytes 2 w)
  else if nbits = 8 then some (.ipProtocol, bigBytes 1 w)
  else if nbits = 64 then some (.arpHeader, bigBytes 8 w)
  else none

/-- The instruction the decoder reads from a word of spec/opcode_table.json. -/
def decodeTableWord (nbits w : Nat) : Option Instr :=
  match tableBytes nbits w with
  | some (site, bytes) => (decodeAt site bytes).toOption
  | none => none

end Sys2Proof
end

