-- ==== Sys2Proof/Machine/Arp.lean ====
section
/-! DEFINITION. The ARP responder (42_reply.md R200 to R207). -/

namespace Sys2Proof.Machine

/-- The in-place rewrite, in the source's order, each write on the buffer as the earlier ones left it (42_reply.md
R203; 00_scope.md R17). -/
def arpRewrite (m0 : Memory) (lmac : BitVec 48) : Memory :=
  let dst := m0.bytes 2 6
  let m1 := m0.setBytes 2 (m0.bytes 8 6)
  let m2 := m1.setBytes 8 dst
  let m3 := m2.setBytes 8 (macBytes lmac)
  let m4 := m3.setBE16 22 2#16
  let m5 := m4.setBytes 34 (m4.bytes 24 6)
  let m6 := m5.setBytes 24 (macBytes lmac)
  let spa := m6.bytes 30 4
  let m7 := m6.setBytes 30 (m6.bytes 40 4)
  m7.setBytes 40 spa

/-- The checks of a request, in the source's order; the first that fails is the result (42_reply.md R201). -/
def arpValidate (s : State) (next : Completion) : Completion :=
  if s.buf.be16 22 ≠ 1#16 then raise s .eArpOp ((s.buf.be16 22).zeroExtend 32) 0#32
  else if s.buf.be16 16 ≠ 1#16 then raise s .eArpHtype ((s.buf.be16 16).zeroExtend 32) 0#32
  else if s.buf.be16 18 ≠ 0x0800#16 then raise s .eArpPtype ((s.buf.be16 18).zeroExtend 32) 0#32
  else if s.buf.byte 20 ≠ 6#8 then raise s .eArpHlen ((s.buf.byte 20).zeroExtend 32) 0#32
  else if s.buf.byte 21 ≠ 4#8 then raise s .eArpPlen ((s.buf.byte 21).zeroExtend 32) 0#32
  else next

/-- The reply to a request that passed validation: the local MAC check, the rewrite, 48 bytes to transmit
(42_reply.md R202 to R207). -/
def arpReply (s : State) : Completion :=
  if s.latched.lmacValid = false then raise s .eNoLmac 0#32 0#32
  else finishTx (arpRewrite s.buf s.latched.lmac) .okArpReply 48

/-- `ArpRespond` (42_reply.md R200). -/
def arpRespond (s : State) : Completion := need s 42 (arpValidate s (arpReply s))

/-- The meaning of ARP_REQUEST: what PROCESS does once the ARP key selected the row (42_reply.md R202 to R207;
log entries 11 and 14). -/
def execArpRequest (s : State) : Host.Outcome State Fault Refusal :=
  .next (complete s (ethEntry s (need s 42 (arpReply s))))

/-- The meaning of ETH_ARP: what PROCESS does once the EtherType selected the row (42_reply.md R200; log entries
11 and 14). -/
def execEthArp (s : State) : Host.Outcome State Fault Refusal := .next (complete s (ethEntry s (arpRespond s)))

end Sys2Proof.Machine
end

