-- ==== Sys2Proof/Machine/Checksum.lean ====
section
/-! DEFINITION. The Checksum Engine and the CSUM and CSUM_CONSTRUCT commands (40_checksum.md). -/

namespace Sys2Proof.Machine

/-- The accumulator after the `n` words at `a` (40_checksum.md R140, the `for` loop). It never overflows for
`n ≤ 65535` (R142). -/
def sumWords (m : Memory) (a : Nat) : Nat → Word
  | 0 => 0#32
  | n + 1 => sumWords m a n + (m.be16 (a + 2 * n)).zeroExtend 32

/-- One pass of the fold loop: the high half is added into the low half (40_checksum.md R140). -/
def foldOnce (acc : Word) : Word := (acc.extractLsb' 0 16).zeroExtend 32 + (acc.extractLsb' 16 16).zeroExtend 32

/-- The fold loop, at most `k` passes of it (40_checksum.md R140, the `while` loop). -/
def foldCarries : Nat → Word → Word
  | 0, acc => acc
  | k + 1, acc => if acc.extractLsb' 16 16 = 0#16 then acc else foldCarries k (foldOnce acc)

/-- `Checksum(a, n)` (40_checksum.md R140). Two passes end the fold loop for every accumulator (R142). -/
def checksum (m : Memory) (a n : Nat) : Half := ~~~((foldCarries 2 (sumWords m a n)).extractLsb' 0 16)

/-- Construction: zero the field at `f`, compute over the span, write the result into the field (40_checksum.md
R146). -/
def construct (m : Memory) (a n f : Nat) : Memory :=
  (m.setBE16 f 0#16).setBE16 f (checksum (m.setBE16 f 0#16) a n)

/-- CSUM (40_checksum.md R149). -/
def csumCommand (s : State) : Completion :=
  let a := s.latched.csumOff
  let n := s.latched.csumN
  if a.toNat + 2 * n.toNat > s.params.bufSize then raise s .eRange (a.zeroExtend 32) (n.zeroExtend 32)
  else { finish s.buf .okCsum 0#32 0#32 with csum := some (checksum s.buf a.toNat n.toNat) }

/-- CSUM_CONSTRUCT (40_checksum.md R150). -/
def csumConstructCommand (s : State) : Completion :=
  let a := s.latched.csumOff
  let n := s.latched.csumN
  let f := s.latched.csumField
  if a.toNat + 2 * n.toNat > s.params.bufSize then raise s .eRange (a.zeroExtend 32) (n.zeroExtend 32)
  else if f.toNat + 2 > s.params.bufSize then raise s .eFieldRange (f.zeroExtend 32) 0#32
  else
    { finish (construct s.buf a.toNat n.toNat f.toNat) .okCsumConstruct 0#32 0#32 with
      csum := some (checksum (s.buf.setBE16 f.toNat 0#16) a.toNat n.toNat) }

/-- The meaning of CSUM (40_checksum.md R149). -/
def execCsum (s : State) : Host.Outcome State Fault Refusal := .next (complete s (csumCommand s))

/-- The meaning of CSUM_CONSTRUCT (40_checksum.md R150). -/
def execCsumConstruct (s : State) : Host.Outcome State Fault Refusal := .next (complete s (csumConstructCommand s))

end Sys2Proof.Machine
end

