-- ==== Sys2Proof/Machine/Icmp.lean ====
section
/-! DEFINITION. The ICMP echo responder (42_reply.md R210 to R225). -/

namespace Sys2Proof.Machine

/-- The Ethernet step: swap the MAC addresses, then the local MAC over the source (42_reply.md R217). -/
def icmpSwapMacs (m0 : Memory) (lmac : BitVec 48) : Memory :=
  let dst := m0.bytes 2 6
  let m1 := m0.setBytes 2 (m0.bytes 8 6)
  let m2 := m1.setBytes 8 dst
  m2.setBytes 8 (macBytes lmac)

/-- The IPv4 address step: swap source and destination (42_reply.md R218). -/
def icmpSwapAddresses (m0 : Memory) : Memory :=
  let src := m0.bytes 28 4
  let m1 := m0.setBytes 28 (m0.bytes 32 4)
  m1.setBytes 32 src

/-- The rewrite in the order of 42_reply.md R217 to R220, each step on the buffer as the earlier ones left it, for
every IHL (R225). `h` is IHL, `t` is L4 and `n` the ICMP word count, as read before the rewrite. -/
def icmpRewrite (m : Memory) (lmac : BitVec 48) (h t n : Nat) : Memory :=
  let m1 := icmpSwapMacs m lmac
  let m2 := icmpSwapAddresses m1
  let m3 := construct m2 16 (2 * h) 26
  let m4 := m3.setByte t 0#8
  construct m4 t n (t + 2)

/-- The length and checksum validation, the local MAC check and the reply (42_reply.md R213 to R223). -/
def icmpEchoReply (s : State) : Completion :=
  let h := ihl s.buf
  let t := l4 s.buf
  let tl := totalLength s.buf
  let n := icmpWords s.buf
  if tl < 4 * h + 8 then raise s .eIcmpLen (BitVec.ofNat 32 tl) (BitVec.ofNat 32 (4 * h + 8))
  else need s (14 + tl) <|
    if checksum s.buf t n ≠ 0#16 then
      raise s .eIcmpCsum ((s.buf.be16 (t + 2)).zeroExtend 32) ((checksum s.buf t n).zeroExtend 32)
    else if s.latched.lmacValid = false then raise s .eNoLmac 0#32 0#32
    else finishTx (icmpRewrite s.buf s.latched.lmac h t n) .okIcmpReply (ceil8 (tl + 16))

/-- `IcmpRespond` (42_reply.md R210): the type is checked before the code (R211, R212). -/
def icmpRespond (s : State) : Completion :=
  need s (22 + 4 * ihl s.buf) <|
    if s.buf.byte (l4 s.buf) ≠ 8#8 then raise s .eIcmpType ((s.buf.byte (l4 s.buf)).zeroExtend 32) 0#32
    else if s.buf.byte (l4 s.buf + 1) ≠ 0#8 then
      raise s .eIcmpCode ((s.buf.byte (l4 s.buf + 1)).zeroExtend 32) 0#32
    else icmpEchoReply s

/-- The meaning of ICMP_ECHO_REQUEST: what PROCESS does once the ICMP key selected the row (42_reply.md R213 to
R223; log entries 11 and 14). -/
def execIcmpEchoRequest (s : State) : Host.Outcome State Fault Refusal :=
  .next (complete s (ipv4Entry s (need s (22 + 4 * ihl s.buf) (icmpEchoReply s))))

/-- The meaning of IPV4_ICMP: what PROCESS does once the protocol number selected the row (42_reply.md R210; log
entries 11 and 14). -/
def execIpv4Icmp (s : State) : Host.Outcome State Fault Refusal := .next (complete s (ipv4Entry s (icmpRespond s)))

end Sys2Proof.Machine
end

