-- ==== Sys2Proof/Machine/Udp.lean ====
section
/-! DEFINITION. The UDP inspector (41_dispatch.md R170 to R178). -/

namespace Sys2Proof.Machine

/-- The inspection registers of the datagram at `L4` (41_dispatch.md R170; 30_encoding.md R110, R114). -/
def udpFields (m : Memory) : Inspect :=
  let u := l4 m
  let ul := udpLength m
  let magic := m.be64 (u + 10)
  let asport := m.be64 (u + 18)
  let adport := m.be64 (u + 26)
  { srcIp := m.be32 28
    dstIp := m.be32 32
    sport := m.be16 u
    dport := m.be16 (u + 2)
    ulen := m.be16 (u + 4)
    rport := m.be16 (u + 8)
    magicLo := magic.extractLsb' 0 32
    magicHi := magic.extractLsb' 32 32
    asportLo := asport.extractLsb' 0 32
    asportHi := asport.extractLsb' 32 32
    adportLo := adport.extractLsb' 0 32
    adportHi := adport.extractLsb' 32 32
    wcount := BitVec.ofNat 16 ((ul - 34) / 8)
    payloadOff := BitVec.ofNat 16 (u + 34) }

/-- `UdpInspect` (41_dispatch.md R170): the header, the length and the whole datagram are checked in that order
(R171 to R173); the UDP checksum is never read (R176). -/
def udpInspect (s : State) : Completion :=
  need s (22 + 4 * ihl s.buf) <|
    if udpLength s.buf < 34 then raise s .eUdpLen (BitVec.ofNat 32 (udpLength s.buf)) 34#32
    else need s (14 + 4 * ihl s.buf + udpLength s.buf) <|
      { finish s.buf .okUdpInspected 0#32 0#32 with inspect := some (udpFields s.buf) }

/-- The meaning of IPV4_UDP: what PROCESS does once the protocol number selected the row (41_dispatch.md R170; log
entries 11 and 14). -/
def execIpv4Udp (s : State) : Host.Outcome State Fault Refusal := .next (complete s (ipv4Entry s (udpInspect s)))

end Sys2Proof.Machine
end

