-- ==== Sys2Proof/Machine/Process.lean ====
section
/-! DEFINITION. PROCESS: the Ethernet and IPv4 dispatchers (41_dispatch.md R160 to R169), and BADCMD (30_encoding.md
R102). -/

namespace Sys2Proof.Machine

/-- Protocol routing on `buf[25]` (41_dispatch.md R168). -/
def protoRoute (s : State) : Completion :=
  if s.buf.byte 25 = keyIpv4Icmp then icmpRespond s
  else if s.buf.byte 25 = keyIpv4Udp then udpInspect s
  else raise s .eIpProto ((s.buf.byte 25).zeroExtend 32) 0#32

/-- `Ipv4Dispatch` (41_dispatch.md R164): the checksum gate comes before the protocol number is read (R167), once
(R169), for every IHL (R165). -/
def ipv4Dispatch (s : State) : Completion :=
  need s 34 <| need s (14 + 4 * ihl s.buf) <|
    if checksum s.buf 16 (2 * ihl s.buf) ≠ 0#16 then
      raise s .eIpCsum ((s.buf.be16 26).zeroExtend 32) ((checksum s.buf 16 (2 * ihl s.buf)).zeroExtend 32)
    else protoRoute s

/-- `EthDispatch` (41_dispatch.md R162); no address is compared (R163). -/
def ethDispatch (s : State) : Completion :=
  need s 14 <|
    if s.buf.be16 14 = keyEthIpv4 then ipv4Dispatch s
    else if s.buf.be16 14 = keyEthArp then arpRespond s
    else raise s .eEthertype ((s.buf.be16 14).zeroExtend 32) 0#32

/-- PROCESS (41_dispatch.md R160). -/
def processCommand (s : State) : Completion := rxLenGate s (ethDispatch s)

/-- The meaning of PROCESS (41_dispatch.md R160). -/
def execProcess (s : State) : Host.Outcome State Fault Refusal := .next (complete s (processCommand s))

/-- The meaning of ETH_IPV4: what PROCESS does once the EtherType selected the row (41_dispatch.md R164; log entries
11 and 14). -/
def execEthIpv4 (s : State) : Host.Outcome State Fault Refusal := .next (complete s (ethEntry s (ipv4Dispatch s)))

/-- The meaning of BADCMD: E_BADCMD with the command word (30_encoding.md R102). DEDUCED, log entry 13: the decoder
gives the row only the word it read, so `value` is `L.cmd`. -/
def execBadcmd (value : Word) (s : State) : Host.Outcome State Fault Refusal :=
  .next (complete s (raise s .eBadcmd value 0#32))

end Sys2Proof.Machine
end

