-- ==== Sys2Proof/Machine/Dispatch.lean ====
section
/-! DEFINITION. One arm per constructor of Instr. -/

namespace Sys2Proof.Machine

def exec (i : Instr) (s : State) : Host.Outcome State Fault Refusal :=
  match i with
  | .process => Sys2Proof.Machine.execProcess s
  | .csum => Sys2Proof.Machine.execCsum s
  | .csumConstruct => Sys2Proof.Machine.execCsumConstruct s
  | .badcmd value => Sys2Proof.Machine.execBadcmd value s
  | .ethIpv4 => Sys2Proof.Machine.execEthIpv4 s
  | .ethArp => Sys2Proof.Machine.execEthArp s
  | .arpRequest => Sys2Proof.Machine.execArpRequest s
  | .ipv4Icmp => Sys2Proof.Machine.execIpv4Icmp s
  | .ipv4Udp => Sys2Proof.Machine.execIpv4Udp s
  | .icmpEchoRequest => Sys2Proof.Machine.execIcmpEchoRequest s

end Sys2Proof.Machine
end

