-- ==== Sys2Proof/Machine/Engine.lean ====
section
/-! DEFINITION. The engine's turn and one event of the schedule (70_reset_and_hazards.md R272), and how a word of
spec/opcode_table.json is placed for the engine. -/

namespace Sys2Proof.Machine

/-- The engine's turn: while BUSY the command in `L.cmd` runs and completes; in IDLE, or while reset is asserted,
nothing happens (10_state.md R52; 70_reset_and_hazards.md R260, R263, R272). -/
def engineTurn (s : State) : Host.Outcome State Fault Refusal :=
  if s.inReset then .next s
  else
    match s.fsm with
    | .idle => .next s
    | .busy => exec (decodeCommand s.latched.cmd) s

/-- One event on the state that no longer holds it. -/
def runEvent (s : State) : Event → Host.Outcome State Fault Refusal
  | .write size addr data => .next (busAccess s addr fun off => hostWrite s size off data)
  | .read size addr => .next (busAccess s addr fun off => hostRead s size off)
  | .engine => engineTurn s
  | .resetLine level => .next (driveReset s level)

/-- The state in which the engine's turn comes next and runs the command word `v`: reset is not asserted, the host
has written `v` to CMD, and it was accepted (10_state.md R34). -/
def placeCommand (s : State) (v : Word) : State :=
  (accept { s with inReset := false } v).withSchedule (.engine :: s.schedule)

/-- A PROCESS whose frame has at least `len` received bytes and the given bytes in the buffer. -/
def placeFrame (s : State) (len : Nat) (buf : Memory) : State :=
  placeCommand { s with buf := buf, rxLen := if s.rxLen.toNat < len then BitVec.ofNat 16 len else s.rxLen } cmdProcess

/-- An IPv4 header that holds its checksum and has nothing but IHL 5 and the protocol byte, for a key that stands
behind the checksum gate (41_dispatch.md R167). -/
def placeIpv4Header (m : Memory) (proto : List Byte) : Memory :=
  let m1 := m.setBE16 14 keyEthIpv4
  let m2 := m1.setBytes 16 (0x45#8 :: List.replicate 19 0#8)
  let m3 := m2.setBytes 25 proto
  construct m3 16 10 26

/-- An instruction's bytes placed at its site, so that the engine's next turn reaches it. The frame around a frame
key is the model's own. DESIGN CHOICE, log entry 3. -/
def placeWord (s : State) : KeySite → List Byte → State
  | .command, [b0, b1, b2, b3] => placeCommand s (b3 ++ b2 ++ b1 ++ b0)
  | .etherType, bytes => placeFrame s 14 (s.buf.setBytes 14 bytes)
  | .arpHeader, bytes => placeFrame s 42 ((s.buf.setBE16 14 keyEthArp).setBytes 16 bytes)
  | .ipProtocol, bytes => placeFrame s 34 (placeIpv4Header s.buf bytes)
  | .icmpHeader, bytes => placeFrame s 42 ((placeIpv4Header s.buf [keyIpv4Icmp]).setBytes 36 bytes)
  | .command, _ => s

end Sys2Proof.Machine
end

