-- ==== Sys2Proof/Machine/Step.lean ====
section
/-! DEFINITION. One step of the machine. -/

namespace Sys2Proof.Machine

/-- The next event of the schedule, or, when nothing is pending, the engine's turn (70_reset_and_hazards.md R272;
log entry 2). -/
def step (s : State) : Host.Outcome State Fault Refusal :=
  match s.schedule with
  | [] => engineTurn s
  | e :: rest => runEvent (s.withSchedule rest) e

/-- `s` with a table word placed where the next step fetches it (log entries 3 and 12). -/
def State.withFetchWord (s : State) (nbits w : Nat) : State :=
  match tableBytes nbits w with
  | some (site, bytes) => placeWord s site bytes
  | none => s

end Sys2Proof.Machine
end

