-- ==== Sys2Proof/Safety.lean ====
section
/-! DEFINITION. What counts as a correct run, and the states that correct and incorrect runs reach. -/

namespace Sys2Proof

open Sys2Proof.Machine

/-- A run is correct while no hazard was taken (10_state.md R55). -/
def Machine.State.correct (s : State) : Bool := !s.hazardFault

/-- The frame fits the buffer, so that PROCESS does not end in E_RXLEN (41_dispatch.md R160). -/
def Machine.State.frameFits (s : State) : Bool := decide (s.latched.rxLen.toNat ≤ s.params.bufSize - 2)

/-- What holds in every state that PDRE reaches, with the rule each part comes from. -/
structure Machine.State.Inv (s : State) : Prop where
  /-- 00_scope.md R8. -/
  paramsWf : s.params.wf = true
  /-- The buffer's list keeps its canonical form. -/
  bufWf : s.buf.wf = true
  /-- 10_state.md R31; 20_memory.md R86: no byte is held past the buffer's end. -/
  bufWithin : s.buf.within s.params.bufSize = true
  /-- 70_reset_and_hazards.md R267: while BUSY every result of the command before is cleared. -/
  busyCleared : s.fsm = .busy → s.done = false ∧ s.result = .none
  /-- 10_state.md R37, R41: DONE says that RESULT is a code. -/
  doneIffResult : s.done = true ↔ s.result ≠ .none
  /-- 10_state.md R40. -/
  errIffCode : s.err = s.result.isError
  /-- 10_state.md R38. -/
  txReqIffReply : s.txReq = true ↔ s.result = .okArpReply ∨ s.result = .okIcmpReply
  /-- 60_exceptions.md R232: both reports are 0 unless an error was reported. -/
  reportOnlyOnError : s.err = false → s.errInfo = 0#32 ∧ s.errAux = 0#32
  /-- 10_state.md R43. -/
  txLenOnlyOnReply : s.txReq = false → s.txLen = 0#17
  /-- 10_state.md R43; 42_reply.md R205, R222: TX_LEN is a multiple of 8 inside the buffer. -/
  txLenInBuffer : s.txLen.toNat ≤ s.params.bufSize ∧ s.txLen.toNat % 8 = 0
  /-- 10_state.md R54: only reset clears the flags, so an operand set latched as valid stays so. -/
  latchedMacSet : s.fsm = .busy → s.latched.lmacValid = true → s.lmacHiSet = true ∧ s.lmacLoSet = true
  /-- 41_dispatch.md R173, R174: the payload that the inspection registers name lies in the buffer. -/
  payloadInBuffer : s.inspect.payloadOff.toNat + 8 * s.inspect.wcount.toNat ≤ s.params.bufSize
  /-- 41_dispatch.md R170, R172, R174: the inspection registers are at reset or from one datagram. -/
  inspectFromDatagram : s.inspect = Inspect.reset ∨
    34 ≤ s.inspect.ulen.toNat ∧ s.inspect.wcount.toNat = (s.inspect.ulen.toNat - 34) / 8
  /-- 70_reset_and_hazards.md R260: reset holds every register. -/
  heldInReset : s.inReset = true → clearRegisters s = s ∧ s.buf.cells = []

end Sys2Proof
end

