-- ==== Sys2Proof/Certificates/Slice0/Obligations.lean ====
section
/-! DEFINITION. The statements for the provers, each citing the rule of spec/ it formalises. -/

namespace Sys2Proof.Claims

open Sys2Proof Sys2Proof.Machine

/-! ### Words the statements share -/

/-- Every byte of the buffer reads as before. -/
def SameBytes (s t : State) : Prop := ∀ a, t.buf.byte a = s.buf.byte a

/-- What no completion may touch: the parameters, `L`, every host-written register and its flags, OVR, the reset
level, `hazard_fault` and the environment. -/
structure HostSideKept (s t : State) : Prop where
  params : t.params = s.params
  latched : t.latched = s.latched
  lmacHiSet : t.lmacHiSet = s.lmacHiSet
  lmacLoSet : t.lmacLoSet = s.lmacLoSet
  ovr : t.ovr = s.ovr
  rxLen : t.rxLen = s.rxLen
  lmacHi : t.lmacHi = s.lmacHi
  lmacLo : t.lmacLo = s.lmacLo
  csumOff : t.csumOff = s.csumOff
  csumNwords : t.csumNwords = s.csumNwords
  csumField : t.csumField = s.csumField
  inReset : t.inReset = s.inReset
  hazardFault : t.hazardFault = s.hazardFault
  schedule : t.schedule = s.schedule
  reply : t.reply = s.reply
  draws : t.draws = s.draws

/-- What a completion by `finish(code, info, aux)` leaves in STATUS, ERR_INFO, ERR_AUX and TX_LEN (00_scope.md R16;
60_exceptions.md R233). -/
def Finished (t : State) (code : ResultCode) (info aux : Nat) : Prop :=
  t.fsm = .idle ∧ t.done = true ∧ t.txReq = false ∧ t.result = code ∧ (t.err = true ↔ 0x10 ≤ code.code.toNat) ∧
    t.errInfo.toNat = info ∧ t.errAux.toNat = aux ∧ t.txLen = 0#17

/-- What a completion by `finish_tx(code, len)` leaves there. -/
def FinishedTx (t : State) (code : ResultCode) (len : Nat) : Prop :=
  t.fsm = .idle ∧ t.done = true ∧ t.txReq = true ∧ t.result = code ∧ t.err = false ∧
    t.errInfo = 0#32 ∧ t.errAux = 0#32 ∧ t.txLen.toNat = len

/-- A command ended in an error: the report, and nothing else changed (60_exceptions.md R234). -/
def Failed (s t : State) (code : ResultCode) (info aux : Nat) : Prop :=
  Finished t code info aux ∧ HostSideKept s t ∧ SameBytes s t ∧ t.csumResult = s.csumResult ∧ t.inspect = s.inspect

/-- `exec` answers a next state with this property. -/
def Ends (i : Instr) (s : State) (P : State → Prop) : Prop := ∃ t, exec i s = .next t ∧ P t

/-- The rows that run inside PROCESS, PROCESS itself among them. -/
def IsProcessRow (i : Instr) : Prop :=
  i = .process ∨ i = .ethIpv4 ∨ i = .ethArp ∨ i = .arpRequest ∨ i = .ipv4Icmp ∨ i = .ipv4Udp ∨
    i = .icmpEchoRequest

/-- The received length of the running command. -/
def rx (s : State) : Nat := s.latched.rxLen.toNat

/-- The exact sum of the `n` words at `a` (40_checksum.md R143's `S`). -/
def wordSum (m : Memory) (a : Nat) : Nat → Nat
  | 0 => 0
  | n + 1 => wordSum m a n + (m.be16 (a + 2 * n)).toNat

/-- The `n` words at `a` (40_checksum.md R141). -/
def spanWords (m : Memory) (a n : Nat) : List Half := (List.range n).map fun k => m.be16 (a + 2 * k)

/-- Byte `k` of the latched local MAC address, in wire order (10_state.md R44). -/
def lmacByte (s : State) (k : Nat) : Byte := s.latched.lmac.extractLsb' (8 * (5 - k)) 8

/-- The latched frame is an ARP request that passes every check of 42_reply.md R200 and R201. -/
structure ArpRequestValid (s : State) : Prop where
  fits : rx s ≤ s.params.bufSize - 2
  received : 42 ≤ rx s
  etherType : s.buf.be16 14 = 0x0806#16
  op : s.buf.be16 22 = 1#16
  htype : s.buf.be16 16 = 1#16
  ptype : s.buf.be16 18 = 0x0800#16
  hlen : s.buf.byte 20 = 6#8
  plen : s.buf.byte 21 = 4#8

/-- The latched frame is IPv4 and passes the gate of 41_dispatch.md R164. -/
structure Ipv4GatePassed (s : State) : Prop where
  fits : rx s ≤ s.params.bufSize - 2
  fixedHeader : 34 ≤ rx s
  header : 14 + 4 * ihl s.buf ≤ rx s
  etherType : s.buf.be16 14 = 0x0800#16
  checksum : checksum s.buf 16 (2 * ihl s.buf) = 0#16

/-- The latched frame is an ICMP echo request that passes every check of 42_reply.md R210 to R215. -/
structure IcmpEchoValid (s : State) : Prop where
  gate : Ipv4GatePassed s
  protocol : s.buf.byte 25 = 1#8
  type : s.buf.byte (l4 s.buf) = 8#8
  code : s.buf.byte (l4 s.buf + 1) = 0#8
  length : 4 * ihl s.buf + 8 ≤ totalLength s.buf
  received : 14 + totalLength s.buf ≤ rx s
  icmpChecksum : Machine.checksum s.buf (l4 s.buf) (icmpWords s.buf) = 0#16

/-- The latched frame is a UDP datagram that passes every check of 41_dispatch.md R170 to R173. -/
structure UdpValid (s : State) : Prop where
  gate : Ipv4GatePassed s
  protocol : s.buf.byte 25 = 17#8
  length : 34 ≤ udpLength s.buf
  received : 14 + 4 * ihl s.buf + udpLength s.buf ≤ rx s

/-- The instructions that run the ARP responder on this frame: its row, and PROCESS where the EtherType selects it
(41_dispatch.md R162). -/
def RunsArp (i : Instr) (s : State) : Prop := i = .ethArp ∨ i = .process ∧ s.buf.be16 14 = 0x0806#16

/-- The same for the IPv4 dispatcher (41_dispatch.md R162). -/
def RunsIpv4 (i : Instr) (s : State) : Prop := i = .ethIpv4 ∨ i = .process ∧ s.buf.be16 14 = 0x0800#16

/-- The same for the ICMP echo responder, behind the gate and the protocol number (41_dispatch.md R167, R168). -/
def RunsIcmp (i : Instr) (s : State) : Prop :=
  i = .ipv4Icmp ∨ RunsIpv4 i s ∧ checksum s.buf 16 (2 * ihl s.buf) = 0#16 ∧ s.buf.byte 25 = 1#8

/-- The same for the UDP inspector (41_dispatch.md R167, R168). -/
def RunsUdp (i : Instr) (s : State) : Prop :=
  i = .ipv4Udp ∨ RunsIpv4 i s ∧ checksum s.buf 16 (2 * ihl s.buf) = 0#16 ∧ s.buf.byte 25 = 17#8

/-- The results of a command are the same in two states (60_exceptions.md R233). -/
structure SameResults (t u : State) : Prop where
  fsm : t.fsm = u.fsm
  done : t.done = u.done
  txReq : t.txReq = u.txReq
  err : t.err = u.err
  result : t.result = u.result
  txLen : t.txLen = u.txLen
  errInfo : t.errInfo = u.errInfo
  errAux : t.errAux = u.errAux
  csumResult : t.csumResult = u.csumResult
  inspect : t.inspect = u.inspect

/-- A bus access of the host, inside PDRE's window or outside it. -/
def IsAccess (e : Event) : Prop := (∃ size addr v, e = .write size addr v) ∨ ∃ size addr, e = .read size addr

/-- The event asserts reset: the reset signal is driven to the level that RESET_KIND names (00_scope.md R11). -/
def AssertsReset (p : Params) (e : Event) : Prop := ∃ level, e = .resetLine level ∧ assertsReset p.resetKind level = true

/-- A host read of the register at `off` answers `w` and changes nothing of PDRE. -/
def Answers (s : State) (off : Nat) (w : Word) : Prop := hostRead s 4 off = { s with reply := .data w }

/-- What the host reads from each register: its field, undefined bits 0 (10_state.md R33). LMAC_HI and LMAC_LO answer
it once they are written, and some value of their bits before (10_state.md R44). -/
structure RegisterReads (s : State) : Prop where
  cmd : Answers s 0x000 0#32
  status : Answers s 0x004 (statusWord s)
  rxLen : Answers s 0x008 (s.rxLen.zeroExtend 32)
  txLen : Answers s 0x00C (s.txLen.zeroExtend 32)
  lmacHi : s.lmacHiSet = true → Answers s 0x010 (s.lmacHi.zeroExtend 32)
  lmacHiUnset : s.lmacHiSet = false → ∃ (w : Half) (n : Nat),
    hostRead s 4 0x010 = { s with reply := .data (w.zeroExtend 32), draws := n }
  lmacLo : s.lmacLoSet = true → Answers s 0x014 s.lmacLo
  lmacLoUnset : s.lmacLoSet = false → ∃ (w : Word) (n : Nat),
    hostRead s 4 0x014 = { s with reply := .data w, draws := n }
  csumOff : Answers s 0x018 (s.csumOff.zeroExtend 32)
  csumNwords : Answers s 0x01C (s.csumNwords.zeroExtend 32)
  csumField : Answers s 0x020 (s.csumField.zeroExtend 32)
  csumResult : Answers s 0x024 (s.csumResult.zeroExtend 32)
  errInfo : Answers s 0x028 s.errInfo
  errAux : Answers s 0x02C s.errAux
  inSrcIp : Answers s 0x030 s.inspect.srcIp
  inDstIp : Answers s 0x034 s.inspect.dstIp
  inSport : Answers s 0x038 (s.inspect.sport.zeroExtend 32)
  inDport : Answers s 0x03C (s.inspect.dport.zeroExtend 32)
  inUlen : Answers s 0x040 (s.inspect.ulen.zeroExtend 32)
  inRport : Answers s 0x044 (s.inspect.rport.zeroExtend 32)
  inMagicLo : Answers s 0x048 s.inspect.magicLo
  inMagicHi : Answers s 0x04C s.inspect.magicHi
  inAsportLo : Answers s 0x050 s.inspect.asportLo
  inAsportHi : Answers s 0x054 s.inspect.asportHi
  inAdportLo : Answers s 0x058 s.inspect.adportLo
  inAdportHi : Answers s 0x05C s.inspect.adportHi
  inWcount : Answers s 0x060 (s.inspect.wcount.zeroExtend 32)
  inPayloadOff : Answers s 0x064 (s.inspect.payloadOff.zeroExtend 32)
  bufSizeReg : ∃ w : Word, Answers s 0x068 w ∧ w.toNat = s.params.bufSize

/-- What a host write of `v` to each register but CMD does: an RW register takes its bits, an LMAC register sets its
own flag as well, a read-only register ignores it, and nothing else changes (10_state.md R33, R44, R54; 20_memory.md
R89). -/
structure RegisterWrites (s : State) (v : Word) : Prop where
  rxLen : hostWrite s 4 0x008 v = { s with rxLen := v.extractLsb' 0 16, reply := .written }
  lmacHi : hostWrite s 4 0x010 v =
    { s with lmacHi := v.extractLsb' 0 16, lmacHiSet := true, reply := .written }
  lmacLo : hostWrite s 4 0x014 v = { s with lmacLo := v, lmacLoSet := true, reply := .written }
  csumOff : hostWrite s 4 0x018 v = { s with csumOff := v.extractLsb' 0 16, reply := .written }
  csumNwords : hostWrite s 4 0x01C v = { s with csumNwords := v.extractLsb' 0 16, reply := .written }
  csumField : hostWrite s 4 0x020 v = { s with csumField := v.extractLsb' 0 16, reply := .written }
  readOnly : ∀ off, off = 0x004 ∨ off = 0x00C ∨ (0x024 ≤ off ∧ off ≤ 0x068 ∧ off % 4 = 0) →
    hostWrite s 4 off v = { s with reply := .written }

/-- `m` is the buffer of the request `s` after the ICMP rewrite, its steps in order: the addresses of 42_reply.md R217
and R218 (`m1`), the IPv4 checksum of R219 over what they left (`m2`), then the type (`m3`) and the ICMP checksum of
R220 over what R219 left. -/
def RewrittenInOrder (s : State) (m : Memory) : Prop :=
  ∃ m1 m2 m3 : Memory,
    ((∀ k, k < 6 → m1.byte (2 + k) = s.buf.byte (8 + k)) ∧ (∀ k, k < 6 → m1.byte (8 + k) = lmacByte s k) ∧
      (∀ k, k < 4 → m1.byte (28 + k) = s.buf.byte (32 + k)) ∧ (∀ k, k < 4 → m1.byte (32 + k) = s.buf.byte (28 + k)) ∧
      ∀ a, a < 2 ∨ 14 ≤ a ∧ a < 28 ∨ 36 ≤ a → m1.byte a = s.buf.byte a) ∧
    (m2.be16 26 = checksum (m1.setBE16 26 0#16) 16 (2 * ihl s.buf) ∧
      ∀ a, a ≠ 26 → a ≠ 27 → m2.byte a = m1.byte a) ∧
    (m3.byte (l4 s.buf) = 0#8 ∧ ∀ a, a ≠ l4 s.buf → m3.byte a = m2.byte a) ∧
    m.be16 (l4 s.buf + 2) = checksum (m3.setBE16 (l4 s.buf + 2) 0#16) (l4 s.buf) (icmpWords s.buf) ∧
    ∀ a, a ≠ l4 s.buf + 2 → a ≠ l4 s.buf + 3 → m.byte a = m3.byte a

/-- An access that 20_memory.md R83 allows, in its own words. -/
def AllowedAccess (size off : Nat) : Prop :=
  off < 0x10000 ∧ size = 4 ∧ off % 4 = 0 ∨
  0x10000 ≤ off ∧ (size = 1 ∨ size = 2 ∨ size = 4) ∧ off % size = 0

/-- The values of 10_state.md R60 that reset gives the registers. -/
structure ResetRegisters (t : State) : Prop where
  fsm : t.fsm = .idle
  status : statusWord t = 0#32
  rxLen : t.rxLen = 0#16
  txLen : t.txLen = 0#17
  lmacFlags : t.lmacHiSet = false ∧ t.lmacLoSet = false
  csumOperands : t.csumOff = 0#16 ∧ t.csumNwords = 0#16 ∧ t.csumField = 0#16
  csumResult : t.csumResult = 0#16
  report : t.errInfo = 0#32 ∧ t.errAux = 0#32
  addresses : t.inspect.srcIp = 0#32 ∧ t.inspect.dstIp = 0#32
  ports : t.inspect.sport = 0#16 ∧ t.inspect.dport = 0#16 ∧ t.inspect.ulen = 0#16 ∧ t.inspect.rport = 0#16
  magic : t.inspect.magicLo = 0#32 ∧ t.inspect.magicHi = 0#32
  appPorts : t.inspect.asportLo = 0#32 ∧ t.inspect.asportHi = 0#32 ∧ t.inspect.adportLo = 0#32 ∧
    t.inspect.adportHi = 0#32
  payload : t.inspect.wcount = 0#16 ∧ t.inspect.payloadOff = 0#16

end Sys2Proof.Claims

open Sys2Proof Sys2Proof.Machine Sys2Proof.Claims

/-! ### Encodings -/

/-- The bytes of a site decode to `i` exactly when `i` is well formed, belongs to the site and is encoded by these
bytes: decode and encode agree in both directions (30_encoding.md R100 to R102, R115 to R118). -/
def Obligations.DecodeInvertsEncode : Prop :=
  ∀ (site : KeySite) (bytes : List Byte) (i : Instr),
    decodeAt site bytes = .ok i ↔ i.wellFormed = true ∧ i.site = site ∧ encode i = bytes

/-- Words written out from the tables of 30_encoding.md R101 and R115 to R118 decode to the rows they stand for. -/
def Obligations.WrittenOutWordsDecode : Prop :=
  decodeAt .command [0x01#8, 0x00#8, 0x00#8, 0x00#8] = .ok .process ∧
  decodeAt .command [0x02#8, 0x00#8, 0x00#8, 0x00#8] = .ok .csum ∧
  decodeAt .command [0x11#8, 0x00#8, 0x00#8, 0x00#8] = .ok (.badcmd 0x00000011#32) ∧
  decodeAt .etherType [0x08#8, 0x06#8] = .ok .ethArp ∧
  decodeAt .arpHeader [0x00#8, 0x01#8, 0x08#8, 0x00#8, 0x06#8, 0x04#8, 0x00#8, 0x01#8] = .ok .arpRequest ∧
  decodeAt .ipProtocol [0x11#8] = .ok .ipv4Udp ∧
  decodeAt .icmpHeader [0x08#8, 0x00#8] = .ok .icmpEchoRequest ∧
  decodeTableWord 16 0x0800 = some .ethIpv4

/-! ### One step -/

/-- While BUSY the engine's turn runs the instruction that the bytes of `L.cmd` decode to, and nothing around it but
the event leaving the schedule (10_state.md R52; 70_reset_and_hazards.md R272). -/
def Obligations.StepRunsDecodedCommand : Prop :=
  ∀ (s : State) (i : Instr) (rest : List Event), s.inReset = false → s.fsm = .busy →
    s.schedule = [] ∨ s.schedule = .engine :: rest →
    decodeAt .command (littleBytes 4 s.latched.cmd.toNat) = .ok i →
    i.wellFormed = true ∧ step s = exec i (s.withSchedule s.schedule.tail)

/-- The other events of a step: an access of the host inside the window, one outside it (it leaves PDRE as it is: log
entry 10), reset asserted and deasserted by the level that RESET_KIND names, and the engine's turn where there is
nothing to run (00_scope.md R11; 20_memory.md R80; 70_reset_and_hazards.md R260, R263, R272). -/
def Obligations.StepTakesScheduledEvent : Prop :=
  ∀ (s : State) (rest : List Event) (size off addr : Nat) (v : Word) (level : Bool),
    (off < 0x20000 → s.schedule = .write size (s.params.blockBase + off) v :: rest →
      step s = .next (hostWrite (s.withSchedule rest) size off v)) ∧
    (off < 0x20000 → s.schedule = .read size (s.params.blockBase + off) :: rest →
      step s = .next (hostRead (s.withSchedule rest) size off)) ∧
    (addr < s.params.blockBase ∨ s.params.blockBase + 0x20000 ≤ addr →
      s.schedule = .write size addr v :: rest ∨ s.schedule = .read size addr :: rest →
      step s = .next { s with schedule := rest, reply := .elsewhere }) ∧
    (s.schedule = .resetLine level :: rest →
      (assertsReset s.params.resetKind level = true ↔ (s.params.resetKind.polarity = .activeHigh ↔ level = true)) ∧
      (assertsReset s.params.resetKind level = true → step s = .next (assertReset (s.withSchedule rest))) ∧
      (assertsReset s.params.resetKind level = false → step s = .next { s with schedule := rest, inReset := false })) ∧
    (s.schedule = [] ∨ s.schedule = .engine :: rest → s.fsm = .idle ∨ s.inReset = true →
      step s = .next (s.withSchedule s.schedule.tail))

/-- Every step answers a next state: no state is without a step, and none ends in a fault (60_exceptions.md R237,
R247(d)). -/
def Obligations.EveryStepAnswers : Prop := ∀ s : State, ∃ t : State, step s = .next t

/-- A frame key makes the row it stands in run the row it selects: EtherType inside PROCESS, ARP key inside ETH_ARP,
protocol number behind the checksum gate of ETH_IPV4, ICMP key inside IPV4_ICMP (30_encoding.md R115 to R118;
log entry 11). -/
def Obligations.FrameKeyRunsItsRow : Prop :=
  ∀ (s : State) (i : Instr),
    (decodeEtherType (s.buf.be16 14) = .ok i → exec .process s = exec i s) ∧
    (decodeArpHeader (s.buf.be64 16) = .ok i → exec .ethArp s = exec i s) ∧
    (checksum s.buf 16 (2 * ihl s.buf) = 0#16 → decodeIpProtocol (s.buf.byte 25) = .ok i →
      exec .ethIpv4 s = exec i s) ∧
    (decodeIcmpHeader (s.buf.be16 (l4 s.buf)) = .ok i → exec .ipv4Icmp s = exec i s)

/-! ### The Checksum Engine -/

/-- 40_checksum.md R142: the accumulator is exact for every word count that occurs, and the fold loop ends within two
passes. -/
def Obligations.AccumulatorNeverOverflows : Prop :=
  (∀ (m : Memory) (a n : Nat), n ≤ 65535 →
    (sumWords m a n).toNat = wordSum m a n ∧ wordSum m a n ≤ 0xFFFE0001) ∧
  (∀ s : State, s.latched.csumN.toNat ≤ 65535 ∧ 2 * ihl s.buf ≤ 30 ∧ icmpWords s.buf ≤ 32767) ∧
  (∀ (acc : Word) (k : Nat), (foldOnce acc).toNat ≤ 0x1FFFE ∧ (foldOnce (foldOnce acc)).toNat ≤ 0xFFFF ∧
    foldCarries (k + 2) acc = foldCarries 2 acc ∧ (foldCarries 2 acc).toNat ≤ 0xFFFF)

/-- 40_checksum.md R143: the closed form, for every word count that occurs (R142), and its consequences. -/
def Obligations.ChecksumClosedForm : Prop :=
  ∀ (m : Memory) (a n : Nat), n ≤ 65535 → ∃ F : Nat,
    (foldCarries 2 (sumWords m a n)).toNat = F ∧
    (wordSum m a n = 0 → F = 0) ∧
    (0 < wordSum m a n → F = 1 + (wordSum m a n - 1) % 0xFFFF ∧ 1 ≤ F ∧ F ≤ 0xFFFF) ∧
    F % 0xFFFF = wordSum m a n % 0xFFFF ∧
    (checksum m a n).toNat = 0xFFFF - F ∧
    (checksum m a n = 0xFFFF#16 ↔ ∀ k, k < n → m.be16 (a + 2 * k) = 0#16) ∧
    (checksum m a n = 0x0000#16 ↔ 0 < wordSum m a n ∧ wordSum m a n % 0xFFFF = 0)

/-- 40_checksum.md R144: the checksum depends on the multiset of words only. -/
def Obligations.ChecksumIgnoresWordOrder : Prop :=
  ∀ (m m' : Memory) (a a' n n' : Nat), (spanWords m a n).Perm (spanWords m' a' n') →
    checksum m a n = checksum m' a' n'

/-- 40_checksum.md R147: right after construction of a field inside the span at an even distance, the span validates
(for every word count that occurs, R142). -/
def Obligations.ConstructThenValidate : Prop :=
  ∀ (m : Memory) (a n f : Nat), 1 ≤ n → n ≤ 65535 → a ≤ f → f + 2 ≤ a + 2 * n → (f - a) % 2 = 0 →
    checksum (construct m a n f) a n = 0#16

/-! ### The commands -/

/-- 40_checksum.md R149: how CSUM ends, in range and out of range, with its frame. -/
def Obligations.CsumEnds : Prop :=
  ∀ s : State, Ends .csum s fun t =>
    HostSideKept s t ∧ SameBytes s t ∧ t.inspect = s.inspect ∧
    if s.latched.csumOff.toNat + 2 * s.latched.csumN.toNat ≤ s.params.bufSize then
      Finished t .okCsum 0 0 ∧ t.csumResult = checksum s.buf s.latched.csumOff.toNat s.latched.csumN.toNat
    else
      Finished t .eRange s.latched.csumOff.toNat s.latched.csumN.toNat ∧ t.csumResult = s.csumResult

/-- 40_checksum.md R150: how CSUM_CONSTRUCT ends, the range error first, then the field error, with its frame: the
field is the only place stored to. -/
def Obligations.CsumConstructEnds : Prop :=
  ∀ s : State, Ends .csumConstruct s fun t =>
    HostSideKept s t ∧ t.inspect = s.inspect ∧
    if s.params.bufSize < s.latched.csumOff.toNat + 2 * s.latched.csumN.toNat then
      Finished t .eRange s.latched.csumOff.toNat s.latched.csumN.toNat ∧ SameBytes s t ∧ t.csumResult = s.csumResult
    else if s.params.bufSize < s.latched.csumField.toNat + 2 then
      Finished t .eFieldRange s.latched.csumField.toNat 0 ∧ SameBytes s t ∧ t.csumResult = s.csumResult
    else
      Finished t .okCsumConstruct 0 0 ∧
      t.csumResult = checksum (s.buf.setBE16 s.latched.csumField.toNat 0#16) s.latched.csumOff.toNat
        s.latched.csumN.toNat ∧
      t.buf.be16 s.latched.csumField.toNat = t.csumResult ∧
      ∀ b, b ≠ s.latched.csumField.toNat → b ≠ s.latched.csumField.toNat + 1 → t.buf.byte b = s.buf.byte b

/-- 30_encoding.md R102: any other command word is the row BADCMD, which ends in E_BADCMD with the word, whatever the
state, and changes nothing else. -/
def Obligations.OtherCommandWordsEndInBadcmd : Prop :=
  ∀ (s : State) (v : Word), v ≠ 1#32 → v ≠ 2#32 → v ≠ 3#32 →
    decodeCommand v = .badcmd v ∧ Ends (.badcmd v) s fun t => Failed s t .eBadcmd v.toNat 0

/-- 41_dispatch.md R160, R161: a frame longer than the buffer holds ends PROCESS in E_RXLEN; so does every row inside
PROCESS (for those rows the check is the model's choice, log entry 14). -/
def Obligations.FrameTooLongEndsInRxlen : Prop :=
  ∀ (s : State) (i : Instr), IsProcessRow i → s.params.wf = true → s.params.bufSize - 2 < rx s →
    Ends i s fun t => Failed s t .eRxlen (rx s) (s.params.bufSize - 2)

/-- 41_dispatch.md R162: the Ethernet dispatcher. -/
def Obligations.EthernetDispatch : Prop :=
  ∀ s : State, rx s ≤ s.params.bufSize - 2 →
    (rx s < 14 → Ends .process s fun t => Failed s t .eTrunc (rx s) 14) ∧
    (14 ≤ rx s → s.buf.be16 14 = 0x0800#16 → exec .process s = exec .ethIpv4 s) ∧
    (14 ≤ rx s → s.buf.be16 14 = 0x0806#16 → exec .process s = exec .ethArp s) ∧
    (14 ≤ rx s → s.buf.be16 14 ≠ 0x0800#16 → s.buf.be16 14 ≠ 0x0806#16 →
      Ends .process s fun t => Failed s t .eEthertype (s.buf.be16 14).toNat 0)

/-- 41_dispatch.md R164, R167, R168: the IPv4 dispatcher's checks in order, and its routing. -/
def Obligations.Ipv4DispatchInOrder : Prop :=
  ∀ (s : State) (i : Instr), RunsIpv4 i s → 14 ≤ rx s → rx s ≤ s.params.bufSize - 2 →
    (rx s < 34 → Ends i s fun t => Failed s t .eTrunc (rx s) 34) ∧
    (34 ≤ rx s → rx s < 14 + 4 * ihl s.buf →
      Ends i s fun t => Failed s t .eTrunc (rx s) (14 + 4 * ihl s.buf)) ∧
    (34 ≤ rx s → 14 + 4 * ihl s.buf ≤ rx s →
      (checksum s.buf 16 (2 * ihl s.buf) ≠ 0#16 →
        Ends i s fun t =>
          Failed s t .eIpCsum (s.buf.be16 26).toNat (checksum s.buf 16 (2 * ihl s.buf)).toNat) ∧
      (checksum s.buf 16 (2 * ihl s.buf) = 0#16 →
        (s.buf.byte 25 = 1#8 → exec i s = exec .ipv4Icmp s) ∧
        (s.buf.byte 25 = 17#8 → exec i s = exec .ipv4Udp s) ∧
        (s.buf.byte 25 ≠ 1#8 → s.buf.byte 25 ≠ 17#8 →
          Ends i s fun t => Failed s t .eIpProto (s.buf.byte 25).toNat 0)))

/-- 41_dispatch.md R165, its first case: with IHL 0 the gate's span is empty and its checksum 0xFFFF always fails, in
PROCESS and in the row ETH_IPV4 (run as an instruction: log entries 11 and 14). -/
def Obligations.IhlZeroFailsTheGate : Prop :=
  ∀ (s : State) (i : Instr), RunsIpv4 i s → 34 ≤ rx s → rx s ≤ s.params.bufSize - 2 → ihl s.buf = 0 →
    Ends i s fun t => Failed s t .eIpCsum (s.buf.be16 26).toNat 0xFFFF

/-! ### The ARP responder -/

/-- 42_reply.md R200, R201: the ARP responder's checks, in the source's order; the first that fails is reported with
the offending field. Of the row ETH_ARP, on any frame, it is the model's meaning (log entries 11 and 14). -/
def Obligations.ArpChecksInOrder : Prop :=
  ∀ (s : State) (i : Instr), RunsArp i s → 14 ≤ rx s → rx s ≤ s.params.bufSize - 2 →
    (rx s < 42 → Ends i s fun t => Failed s t .eTrunc (rx s) 42) ∧
    (42 ≤ rx s →
      (s.buf.be16 22 ≠ 1#16 → Ends i s fun t => Failed s t .eArpOp (s.buf.be16 22).toNat 0) ∧
      (s.buf.be16 22 = 1#16 → s.buf.be16 16 ≠ 1#16 →
        Ends i s fun t => Failed s t .eArpHtype (s.buf.be16 16).toNat 0) ∧
      (s.buf.be16 22 = 1#16 → s.buf.be16 16 = 1#16 → s.buf.be16 18 ≠ 0x0800#16 →
        Ends i s fun t => Failed s t .eArpPtype (s.buf.be16 18).toNat 0) ∧
      (s.buf.be16 22 = 1#16 → s.buf.be16 16 = 1#16 → s.buf.be16 18 = 0x0800#16 → s.buf.byte 20 ≠ 6#8 →
        Ends i s fun t => Failed s t .eArpHlen (s.buf.byte 20).toNat 0) ∧
      (s.buf.be16 22 = 1#16 → s.buf.be16 16 = 1#16 → s.buf.be16 18 = 0x0800#16 → s.buf.byte 20 = 6#8 →
        s.buf.byte 21 ≠ 4#8 → Ends i s fun t => Failed s t .eArpPlen (s.buf.byte 21).toNat 0))

/-- 42_reply.md R204, R205, R207: a valid request becomes the reply of the closed form, 48 bytes to transmit, whether
PROCESS, its row ETH_ARP or its row ARP_REQUEST runs (the rows as instructions: log entries 11 and 14). Every other
byte and register is as before. -/
def Obligations.ArpReplyBuilt : Prop :=
  ∀ (s : State) (i : Instr), i = .process ∨ i = .ethArp ∨ i = .arpRequest →
    ArpRequestValid s → s.latched.lmacValid = true →
    Ends i s fun t =>
      FinishedTx t .okArpReply 48 ∧ HostSideKept s t ∧ t.csumResult = s.csumResult ∧ t.inspect = s.inspect ∧
      (∀ k, k < 6 → t.buf.byte (2 + k) = s.buf.byte (8 + k)) ∧
      (∀ k, k < 6 → t.buf.byte (8 + k) = lmacByte s k) ∧
      t.buf.be16 22 = 2#16 ∧
      (∀ k, k < 6 → t.buf.byte (24 + k) = lmacByte s k) ∧
      (∀ k, k < 4 → t.buf.byte (30 + k) = s.buf.byte (40 + k)) ∧
      (∀ k, k < 6 → t.buf.byte (34 + k) = s.buf.byte (24 + k)) ∧
      (∀ k, k < 4 → t.buf.byte (40 + k) = s.buf.byte (30 + k)) ∧
      ∀ a, a < 2 ∨ 14 ≤ a ∧ a < 22 ∨ 44 ≤ a → t.buf.byte a = s.buf.byte a

/-- 42_reply.md R202, R216: a valid request without a latched local MAC ends in E_NO_LMAC and no byte is rewritten, in
PROCESS and in its rows (as instructions: log entries 11 and 14). -/
def Obligations.ReplyNeedsLocalMac : Prop :=
  ∀ (s : State) (i : Instr), s.latched.lmacValid = false →
    (ArpRequestValid s → i = .process ∨ i = .ethArp ∨ i = .arpRequest →
      Ends i s fun t => Failed s t .eNoLmac 0 0) ∧
    (IcmpEchoValid s → i = .process ∨ i = .ethIpv4 ∨ i = .ipv4Icmp ∨ i = .icmpEchoRequest →
      Ends i s fun t => Failed s t .eNoLmac 0 0)

/-! ### The ICMP echo responder -/

/-- 42_reply.md R210 to R215: the ICMP checks in order. Of the row IPV4_ICMP, on a frame that PROCESS would not route
there, it is the model's meaning (log entries 11 and 14). -/
def Obligations.IcmpChecksInOrder : Prop :=
  ∀ (s : State) (i : Instr), RunsIcmp i s → 34 ≤ rx s → 14 + 4 * ihl s.buf ≤ rx s →
    rx s ≤ s.params.bufSize - 2 →
    (rx s < 22 + 4 * ihl s.buf → Ends i s fun t => Failed s t .eTrunc (rx s) (22 + 4 * ihl s.buf)) ∧
    (22 + 4 * ihl s.buf ≤ rx s →
      (s.buf.byte (l4 s.buf) ≠ 8#8 →
        Ends i s fun t => Failed s t .eIcmpType (s.buf.byte (l4 s.buf)).toNat 0) ∧
      (s.buf.byte (l4 s.buf) = 8#8 → s.buf.byte (l4 s.buf + 1) ≠ 0#8 →
        Ends i s fun t => Failed s t .eIcmpCode (s.buf.byte (l4 s.buf + 1)).toNat 0) ∧
      (s.buf.byte (l4 s.buf) = 8#8 → s.buf.byte (l4 s.buf + 1) = 0#8 →
        (totalLength s.buf < 4 * ihl s.buf + 8 →
          Ends i s fun t => Failed s t .eIcmpLen (totalLength s.buf) (4 * ihl s.buf + 8)) ∧
        (4 * ihl s.buf + 8 ≤ totalLength s.buf → rx s < 14 + totalLength s.buf →
          Ends i s fun t => Failed s t .eTrunc (rx s) (14 + totalLength s.buf)) ∧
        (4 * ihl s.buf + 8 ≤ totalLength s.buf → 14 + totalLength s.buf ≤ rx s →
          checksum s.buf (l4 s.buf) (icmpWords s.buf) ≠ 0#16 →
          Ends i s fun t => Failed s t .eIcmpCsum (s.buf.be16 (l4 s.buf + 2)).toNat
            (checksum s.buf (l4 s.buf) (icmpWords s.buf)).toNat)))

/-- 42_reply.md R219, R222, R224: for IHL 5 and more a valid echo request becomes the reply of the closed form, and its
transmit length fits the buffer, whether PROCESS or one of its rows on the way runs (as instructions: log entries 11
and 14). Every other byte and register is as before. -/
def Obligations.IcmpReplyBuilt : Prop :=
  ∀ (s : State) (i : Instr), i = .process ∨ i = .ethIpv4 ∨ i = .ipv4Icmp ∨ i = .icmpEchoRequest →
    s.params.wf = true → IcmpEchoValid s → s.latched.lmacValid = true → 5 ≤ ihl s.buf →
    Ends i s fun t =>
      FinishedTx t .okIcmpReply (ceil8 (totalLength s.buf + 16)) ∧ t.txLen.toNat ≤ s.params.bufSize ∧
      HostSideKept s t ∧ t.csumResult = s.csumResult ∧ t.inspect = s.inspect ∧
      (∀ k, k < 6 → t.buf.byte (2 + k) = s.buf.byte (8 + k)) ∧
      (∀ k, k < 6 → t.buf.byte (8 + k) = lmacByte s k) ∧
      (∀ k, k < 4 → t.buf.byte (28 + k) = s.buf.byte (32 + k)) ∧
      (∀ k, k < 4 → t.buf.byte (32 + k) = s.buf.byte (28 + k)) ∧
      t.buf.be16 26 = checksum (t.buf.setBE16 26 0#16) 16 (2 * ihl s.buf) ∧
      t.buf.be16 26 = (if s.buf.be16 26 = 0xFFFF#16 then 0x0000#16 else s.buf.be16 26) ∧
      t.buf.byte (l4 s.buf) = 0#8 ∧
      t.buf.be16 (l4 s.buf + 2) =
        checksum ((s.buf.setByte (l4 s.buf) 0#8).setBE16 (l4 s.buf + 2) 0#16) (l4 s.buf) (icmpWords s.buf) ∧
      ∀ a, a < 2 ∨ 14 ≤ a ∧ a < 26 ∨ 36 ≤ a ∧ a ≠ l4 s.buf ∧ a ≠ l4 s.buf + 2 ∧ a ≠ l4 s.buf + 3 →
        t.buf.byte a = s.buf.byte a

/-- 42_reply.md R223: the stage ends with `finish_tx`, and for IHL 5 and more it has type 0 and
code 0, the addresses swapped, and both its checksums validate. -/
def Obligations.IcmpReplyValidates : Prop :=
  ∀ s t : State, IcmpEchoValid s → s.latched.lmacValid = true → exec .process s = .next t →
    FinishedTx t .okIcmpReply (ceil8 (totalLength s.buf + 16)) ∧
    (5 ≤ ihl s.buf →
      t.buf.byte (l4 s.buf) = 0#8 ∧ t.buf.byte (l4 s.buf + 1) = 0#8 ∧
      t.buf.be32 28 = s.buf.be32 32 ∧ t.buf.be32 32 = s.buf.be32 28 ∧
      checksum t.buf 16 (2 * ihl s.buf) = 0#16 ∧
      checksum t.buf (l4 s.buf) (icmpWords s.buf) = 0#16)

/-- 42_reply.md R217 to R220, R222, R225: a valid echo request is answered for every IHL, the overlapping ones of 1 to 4
too: the length fits the buffer, the rewrite's steps run in order, each on the buffer that the one before left, and the
ICMP checksum of the last step validates. The rows run as instructions (log entries 11 and 14). -/
def Obligations.IcmpReplyForEveryHeaderLength : Prop :=
  ∀ (s : State) (i : Instr), i = .process ∨ i = .ethIpv4 ∨ i = .ipv4Icmp ∨ i = .icmpEchoRequest →
    s.params.wf = true → IcmpEchoValid s → s.latched.lmacValid = true →
    Ends i s fun t =>
      FinishedTx t .okIcmpReply (ceil8 (totalLength s.buf + 16)) ∧ t.txLen.toNat ≤ s.params.bufSize ∧
      HostSideKept s t ∧ t.csumResult = s.csumResult ∧ t.inspect = s.inspect ∧
      (∀ k, k < 6 → t.buf.byte (2 + k) = s.buf.byte (8 + k)) ∧
      (∀ k, k < 6 → t.buf.byte (8 + k) = lmacByte s k) ∧
      RewrittenInOrder s t.buf ∧
      t.buf.byte (l4 s.buf) = 0#8 ∧
      checksum t.buf (l4 s.buf) (icmpWords s.buf) = 0#16 ∧
      ∀ a, a < 2 ∨ 14 ≤ a ∧ a < 26 ∧ a ≠ l4 s.buf ∧ a ≠ l4 s.buf + 2 ∧ a ≠ l4 s.buf + 3 ∨
          36 ≤ a ∧ a ≠ l4 s.buf ∧ a ≠ l4 s.buf + 2 ∧ a ≠ l4 s.buf + 3 →
        t.buf.byte a = s.buf.byte a

/-! ### The UDP inspector -/

/-- 41_dispatch.md R170 to R173: the UDP inspector's checks in order. Of the row IPV4_UDP, on any frame, it is the
model's meaning (log entries 11 and 14). -/
def Obligations.UdpChecksInOrder : Prop :=
  ∀ (s : State) (i : Instr), RunsUdp i s → 34 ≤ rx s → 14 + 4 * ihl s.buf ≤ rx s →
    rx s ≤ s.params.bufSize - 2 →
    (rx s < 22 + 4 * ihl s.buf → Ends i s fun t => Failed s t .eTrunc (rx s) (22 + 4 * ihl s.buf)) ∧
    (22 + 4 * ihl s.buf ≤ rx s → udpLength s.buf < 34 →
      Ends i s fun t => Failed s t .eUdpLen (udpLength s.buf) 34) ∧
    (22 + 4 * ihl s.buf ≤ rx s → 34 ≤ udpLength s.buf → rx s < 14 + 4 * ihl s.buf + udpLength s.buf →
      Ends i s fun t => Failed s t .eTrunc (rx s) (14 + 4 * ihl s.buf + udpLength s.buf))

/-- 41_dispatch.md R170, R174, R175: a whole datagram is decoded into every inspection register, and nothing else
changes. The rows run as instructions (log entries 11 and 14). -/
def Obligations.UdpInspected : Prop :=
  ∀ (s : State) (i : Instr), i = .process ∨ i = .ethIpv4 ∨ i = .ipv4Udp → UdpValid s →
    Ends i s fun t =>
      Finished t .okUdpInspected 0 0 ∧ HostSideKept s t ∧ SameBytes s t ∧ t.csumResult = s.csumResult ∧
      t.inspect.srcIp = s.buf.be32 28 ∧ t.inspect.dstIp = s.buf.be32 32 ∧
      t.inspect.sport = s.buf.be16 (l4 s.buf) ∧ t.inspect.dport = s.buf.be16 (l4 s.buf + 2) ∧
      t.inspect.ulen.toNat = udpLength s.buf ∧ t.inspect.rport = s.buf.be16 (l4 s.buf + 8) ∧
      t.inspect.magicHi = s.buf.be32 (l4 s.buf + 10) ∧ t.inspect.magicLo = s.buf.be32 (l4 s.buf + 14) ∧
      t.inspect.asportHi = s.buf.be32 (l4 s.buf + 18) ∧ t.inspect.asportLo = s.buf.be32 (l4 s.buf + 22) ∧
      t.inspect.adportHi = s.buf.be32 (l4 s.buf + 26) ∧ t.inspect.adportLo = s.buf.be32 (l4 s.buf + 30) ∧
      t.inspect.wcount.toNat = (udpLength s.buf - 34) / 8 ∧ t.inspect.payloadOff.toNat = l4 s.buf + 34

/-! ### What holds of every command -/

/-- 60_exceptions.md R233; 10_state.md R38, R40: every instruction completes in every state, the flags say how, and
what the host has written stays. -/
def Obligations.EveryCommandCompletes : Prop :=
  ∀ (i : Instr) (s : State), Ends i s fun t =>
    t.fsm = .idle ∧ t.done = true ∧ t.result ≠ .none ∧ (t.err = true ↔ 0x10 ≤ t.result.code.toNat) ∧
    (t.txReq = true ↔ t.result = .okArpReply ∨ t.result = .okIcmpReply) ∧ HostSideKept s t

/-- 60_exceptions.md R234: a command that ends in an error leaves the buffer and every result register but the report
as they were, and asks for no transmission. -/
def Obligations.ErrorsLeaveTheBuffer : Prop :=
  ∀ (i : Instr) (s t : State), exec i s = .next t → t.err = true →
    SameBytes s t ∧ t.txReq = false ∧ t.txLen = 0#17 ∧ t.csumResult = s.csumResult ∧ t.inspect = s.inspect

/-- 41_dispatch.md R174; 10_state.md R46: only OK_UDP_INSPECTED writes the inspection registers, and only a successful
CSUM or CSUM_CONSTRUCT writes CSUM_RESULT. -/
def Obligations.ResultRegistersKeepTheirValues : Prop :=
  ∀ (i : Instr) (s t : State), exec i s = .next t →
    (t.result ≠ .okUdpInspected → t.inspect = s.inspect) ∧
    (t.result ≠ .okCsum → t.result ≠ .okCsumConstruct → t.csumResult = s.csumResult)

/-- 42_reply.md R205, R221, R222; 30_encoding.md R105: no row of PROCESS, nor CSUM or BADCMD, writes the two pad bytes
or a byte past the received frame. Of the frame-key rows run as instructions it is the model's choice: they run behind
PROCESS's received-length checks (log entries 11 and 14). -/
def Obligations.PadAndTailNeverWritten : Prop :=
  ∀ (i : Instr) (s t : State), i ≠ .csumConstruct → exec i s = .next t →
    ∀ a, a < 2 ∨ 2 + rx s ≤ a → t.buf.byte a = s.buf.byte a

/-- 41_dispatch.md R161, R163; 20_memory.md R86: what PROCESS reports depends on the received bytes from the EtherType
on, the received length and whether a local MAC is latched: on no byte outside the frame, no Ethernet address, no
value of the local MAC. So does each of its rows; of these, run as instructions, it is the model's choice: they run
behind PROCESS's received-length checks (log entries 11 and 14). -/
def Obligations.ReportReadsReceivedBytesOnly : Prop :=
  ∀ (i : Instr) (s s' t t' : State), IsProcessRow i →
    s'.params = s.params → s'.latched.rxLen = s.latched.rxLen → s'.latched.lmacValid = s.latched.lmacValid →
    (∀ a, 14 ≤ a → a < 2 + rx s → s'.buf.byte a = s.buf.byte a) →
    exec i s = .next t → exec i s' = .next t' →
    t'.result = t.result ∧ t'.errInfo = t.errInfo ∧ t'.errAux = t.errAux ∧ t'.txLen = t.txLen ∧
    t'.txReq = t.txReq ∧ t'.err = t.err ∧ (t.result = .okUdpInspected → t'.inspect = t.inspect)

/-! ### The host's accesses -/

/-- 10_state.md R34, R44: CMD reads 0, and a write to it is accepted in IDLE, with the operands latched and the report
of the command before cleared, and ignored with OVR set while BUSY. -/
def Obligations.CommandWrite : Prop :=
  ∀ (s : State) (v : Word), s.inReset = false →
    hostRead s 4 0x000 = { s with reply := .data 0#32 } ∧
    (s.fsm = .busy → hostWrite s 4 0x000 v = { s with ovr := true, reply := .written }) ∧
    (s.fsm = .idle → ∃ t : State, hostWrite s 4 0x000 v = t ∧
      t.fsm = .busy ∧ statusWord t = 0x00000001#32 ∧ t.errInfo = 0#32 ∧ t.errAux = 0#32 ∧ t.txLen = 0#17 ∧
      t.latched.cmd = v ∧ t.latched.rxLen = s.rxLen ∧ t.latched.csumOff = s.csumOff ∧
      t.latched.csumN = s.csumNwords ∧ t.latched.csumField = s.csumField ∧
      (t.latched.lmacValid = true ↔ s.lmacHiSet = true ∧ s.lmacLoSet = true) ∧
      [lmacByte t 0, lmacByte t 1, lmacByte t 2, lmacByte t 3, lmacByte t 4, lmacByte t 5] =
        [s.lmacHi.extractLsb' 8 8, s.lmacHi.extractLsb' 0 8, s.lmacLo.extractLsb' 24 8, s.lmacLo.extractLsb' 16 8,
          s.lmacLo.extractLsb' 8 8, s.lmacLo.extractLsb' 0 8] ∧
      t = { s with
        latched := t.latched, fsm := t.fsm, done := t.done, txReq := t.txReq, ovr := t.ovr, err := t.err,
        result := t.result, errInfo := t.errInfo, errAux := t.errAux, txLen := t.txLen, reply := .written })

/-- 10_state.md R33, R42 to R49, R54, R58; 20_memory.md R89: what a host read of each register answers, in any state,
what a write to each does and leaves, and what a read after the write answers. -/
def Obligations.RegisterReadBack : Prop :=
  ∀ (s : State) (v : Word), s.inReset = false → s.params.wf = true →
    RegisterReads s ∧ RegisterWrites s v ∧
    (∀ off, off = 0x008 ∨ off = 0x010 ∨ off = 0x018 ∨ off = 0x01C ∨ off = 0x020 →
      (hostRead (hostWrite s 4 off v) 4 off).reply = .data (v &&& 0x0000FFFF#32)) ∧
    (hostRead (hostWrite s 4 0x014 v) 4 0x014).reply = .data v

/-- 10_state.md R33, R50: each register stands at its offset of the table, and the offsets of no register are those
past 0x068 or no multiple of 4. -/
def Obligations.RegisterMap : Prop :=
  (∀ r : Reg, regAt r.offset = some r) ∧
  Reg.all.map Reg.offset =
    [0x000, 0x004, 0x008, 0x00C, 0x010, 0x014, 0x018, 0x01C, 0x020, 0x024, 0x028, 0x02C, 0x030, 0x034, 0x038, 0x03C,
      0x040, 0x044, 0x048, 0x04C, 0x050, 0x054, 0x058, 0x05C, 0x060, 0x064, 0x068] ∧
  ∀ off, regAt off = none ↔ off % 4 ≠ 0 ∨ 0x068 < off

/-- 10_state.md R35, R36: the fields of STATUS. -/
def Obligations.StatusLayout : Prop :=
  ∀ s : State,
    ((statusWord s).getLsbD 0 = true ↔ s.fsm = .busy) ∧ (statusWord s).getLsbD 1 = s.done ∧
    (statusWord s).getLsbD 2 = s.txReq ∧ (statusWord s).getLsbD 3 = s.ovr ∧ (statusWord s).getLsbD 4 = s.err ∧
    (statusWord s).extractLsb' 5 3 = 0#3 ∧ (statusWord s).extractLsb' 8 8 = s.result.code ∧
    (statusWord s).extractLsb' 16 16 = 0#16

/-- 60_exceptions.md R230: the codes' numbers, and which of them are errors. -/
def Obligations.ResultCodeNumbers : Prop :=
  ResultCode.none.code = 0x00#8 ∧ ResultCode.okArpReply.code = 0x01#8 ∧ ResultCode.okIcmpReply.code = 0x02#8 ∧
  ResultCode.okUdpInspected.code = 0x03#8 ∧ ResultCode.okCsum.code = 0x04#8 ∧
  ResultCode.okCsumConstruct.code = 0x05#8 ∧ ResultCode.eRxlen.code = 0x10#8 ∧ ResultCode.eTrunc.code = 0x11#8 ∧
  ResultCode.eEthertype.code = 0x12#8 ∧ ResultCode.eNoLmac.code = 0x13#8 ∧ ResultCode.eArpOp.code = 0x20#8 ∧
  ResultCode.eArpHtype.code = 0x21#8 ∧ ResultCode.eArpPtype.code = 0x22#8 ∧ ResultCode.eArpHlen.code = 0x23#8 ∧
  ResultCode.eArpPlen.code = 0x24#8 ∧ ResultCode.eIpCsum.code = 0x30#8 ∧ ResultCode.eIpProto.code = 0x31#8 ∧
  ResultCode.eIcmpType.code = 0x40#8 ∧ ResultCode.eIcmpCode.code = 0x41#8 ∧ ResultCode.eIcmpLen.code = 0x42#8 ∧
  ResultCode.eIcmpCsum.code = 0x43#8 ∧ ResultCode.eUdpLen.code = 0x50#8 ∧ ResultCode.eBadcmd.code = 0x60#8 ∧
  ResultCode.eRange.code = 0x61#8 ∧ ResultCode.eFieldRange.code = 0x62#8 ∧
  ∀ c : ResultCode, c.isError = true ↔ 0x10 ≤ c.code.toNat

/-- 20_memory.md R84; 70_reset_and_hazards.md R262: an access that R83 does not allow, and every access during reset,
has no effect but `hazard_fault`. -/
def Obligations.RefusedAccessHasNoEffect : Prop :=
  ∀ (s : State) (size off : Nat) (v : Word), ¬ AllowedAccess size off ∨ s.inReset = true →
    hostWrite s size off v = { s with hazardFault := true, reply := .refused } ∧
    hostRead s size off = { s with hazardFault := true, reply := .refused }

/-- 20_memory.md R85; 10_state.md R50: a reserved register offset, and a buffer offset at or past BUF_SIZE, reads 0 and
ignores writes, BUSY or not. That R85 holds while BUSY too is read from 93_implementation_defined.md U16 (DEDUCED, log
entry 15). -/
def Obligations.ReservedOffsetsReadZero : Prop :=
  ∀ (s : State) (size off : Nat) (v : Word), s.inReset = false → AllowedAccess size off →
    0x068 < off ∧ off < 0x10000 ∨ 0x10000 + s.params.bufSize ≤ off →
    hostWrite s size off v = { s with reply := .written } ∧ hostRead s size off = { s with reply := .data 0#32 }

/-- 20_memory.md R82, R89: in IDLE an allowed buffer read answers the bytes in their lanes and an allowed write stores
the lanes at the offset and nothing else. Read back at the same width, it answers the bits written; that the bits above
a narrow read's lanes are 0 there is the model's choice (DESIGN CHOICE, log entry 16). -/
def Obligations.HostLanesLittleEndian : Prop :=
  ∀ (s : State) (size i : Nat) (v : Word), s.inReset = false → s.fsm = .idle → s.params.wf = true →
    size = 1 ∨ size = 2 ∨ size = 4 → i % size = 0 → i < s.params.bufSize →
    (∃ w : Word, hostRead s size (0x10000 + i) = { s with reply := .data w } ∧
      ∀ k, k < size → w.extractLsb' (8 * k) 8 = s.buf.byte (i + k)) ∧
    ∃ t : State, hostWrite s size (0x10000 + i) v = t ∧
      (∀ k, k < size → t.buf.byte (i + k) = v.extractLsb' (8 * k) 8) ∧
      (∀ a, a < i ∨ i + size ≤ a → t.buf.byte a = s.buf.byte a) ∧
      t = { s with buf := t.buf, reply := .written } ∧
      ∃ w : Word, (hostRead t size (0x10000 + i)).reply = .data w ∧ w.toNat = v.toNat % 256 ^ size

/-- 70_reset_and_hazards.md R265, R266: while BUSY a write to the buffer is refused and recorded, and a read of it
answers some value and changes nothing of PDRE. -/
def Obligations.BufferAccessWhileBusy : Prop :=
  ∀ (s : State) (size off : Nat) (v : Word), s.inReset = false → s.fsm = .busy → AllowedAccess size off →
    0x10000 ≤ off → off < 0x10000 + s.params.bufSize →
    hostWrite s size off v = { s with hazardFault := true, reply := .refused } ∧
    ∃ w : Word, hostRead s size off = { s with reply := .data w, draws := s.draws + 1 }

/-- 20_memory.md R89: no read changes anything of PDRE; it answers on the bus and may take a free value. -/
def Obligations.ReadsHaveNoSideEffect : Prop :=
  ∀ (s : State) (size off : Nat), s.inReset = false → AllowedAccess size off →
    ∃ (w : Word) (n : Nat), hostRead s size off = { s with reply := .data w, draws := n }

/-- 70_reset_and_hazards.md R267: what the result registers read while BUSY, in every state that PDRE reaches. -/
def Obligations.RegistersReadWhileBusy : Prop :=
  ∀ s : State, s.Inv → s.inReset = false → s.fsm = .busy →
    (hostRead s 4 0x004).reply = .data (if s.ovr then 0x00000009#32 else 0x00000001#32) ∧
    (hostRead s 4 0x00C).reply = .data 0#32 ∧ (hostRead s 4 0x028).reply = .data 0#32 ∧
    (hostRead s 4 0x02C).reply = .data 0#32

/-! ### Runs -/

/-- 60_exceptions.md R247(a), (d); 00_scope.md R10: a running command completes on every schedule that does not assert
reset: within one step more than the events pending, the operands it latched as they were. -/
def Obligations.EveryAcceptedCommandCompletes : Prop :=
  ∀ s : State, s.inReset = false → s.fsm = .busy → (∀ e, e ∈ s.schedule → ¬ AssertsReset s.params e) →
    ∃ (k : Nat) (t : State), k ≤ s.schedule.length + 1 ∧ Sys2Proof.core.run k s = .next t ∧
      t.fsm = .idle ∧ t.done = true ∧ t.result ≠ .none ∧ t.latched = s.latched

/-- 10_state.md R55; 60_exceptions.md R247(b): `hazard_fault` is a record of the whole run: a run that ends in a correct
state was correct at every state on its way. The run may hold resets: that the record stays across one is DEDUCED (log
entry 8). -/
def Obligations.CorrectRunTakesNoHazard : Prop :=
  ∀ (s t : State) (j k : Nat), Sys2Proof.core.run (j + k) s = .next t → t.correct = true →
    ∃ u : State, Sys2Proof.core.run j s = .next u ∧ u.correct = true ∧ Sys2Proof.core.run k u = .next t

/-- 70_reset_and_hazards.md R272; 10_state.md R53; 20_memory.md R91: whatever accesses the host makes between
acceptance and completion, the command's results and the buffer are those of completing at once, provided no hazard is
taken (60_exceptions.md R247(b)). -/
def Obligations.ResultsIgnoreInterleaving : Prop :=
  ∀ (s : State) (accesses rest : List Event), s.inReset = false → s.fsm = .busy →
    (∀ e, e ∈ accesses → IsAccess e) → s.schedule = accesses ++ .engine :: rest →
    ∃ t u : State, Sys2Proof.core.run (accesses.length + 1) s = .next t ∧ t.schedule = rest ∧
      exec (decodeCommand s.latched.cmd) s = .next u ∧ (t.correct = true → SameResults t u ∧ t.buf = u.buf)

/-- 20_memory.md R92: after completion the results stay as they are, whatever the host accesses, until it writes CMD;
a buffer byte changes only where the host writes it. It is said of runs without a hazard (60_exceptions.md
R247(b)). -/
def Obligations.ResultsStayUntilNextCommand : Prop :=
  ∀ (s : State) (accesses rest : List Event), s.inReset = false → s.fsm = .idle →
    (∀ e, e ∈ accesses → IsAccess e ∧ ∀ size v, e ≠ .write size s.params.blockBase v) →
    s.schedule = accesses ++ rest →
    ∃ t : State, Sys2Proof.core.run accesses.length s = .next t ∧ t.schedule = rest ∧
      (t.correct = true → SameResults t s ∧
        ∀ a, (∀ size i v, .write size (s.params.blockBase + 0x10000 + i) v ∈ accesses → a < i ∨ i + size ≤ a) →
          t.buf.byte a = s.buf.byte a)

/-- 10_state.md R52; 70_reset_and_hazards.md R261: only a write to CMD moves IDLE to BUSY, and only the engine's
completion or reset moves BUSY to IDLE. -/
def Obligations.OnlyCommandsMoveFsm : Prop :=
  ∀ s t : State, step s = .next t →
    (s.fsm = .idle → t.fsm = .busy → ∃ v rest, s.schedule = .write 4 s.params.blockBase v :: rest) ∧
    (s.fsm = .busy → t.fsm = .idle →
      (∃ e rest, s.schedule = e :: rest ∧ AssertsReset s.params e) ∨
      ((s.schedule = [] ∨ ∃ rest, s.schedule = .engine :: rest) ∧ t.done = true))

/-- 10_state.md R54: a set LMAC flag is cleared by reset only. -/
def Obligations.OnlyResetClearsLmacFlags : Prop :=
  ∀ s t : State, step s = .next t → (∀ e rest, s.schedule = e :: rest → ¬ AssertsReset s.params e) →
    (s.lmacHiSet = true → t.lmacHiSet = true) ∧ (s.lmacLoSet = true → t.lmacLoSet = true)

/-- 10_state.md R55; 60_exceptions.md R247(b): `hazard_fault` is never cleared (across a reset too: DEDUCED, log entry
8), and only a malformed access, an access during reset or a write to the buffer while BUSY sets it. -/
def Obligations.HazardFaultRecord : Prop :=
  ∀ s t : State, step s = .next t →
    (s.hazardFault = true → t.hazardFault = true) ∧
    (s.hazardFault = false → t.hazardFault = true → ∃ off rest, off < 0x20000 ∧
      ((∃ size v, s.schedule = .write size (s.params.blockBase + off) v :: rest ∧
        (s.inReset = true ∨ ¬ AllowedAccess size off ∨
          s.fsm = .busy ∧ 0x10000 ≤ off ∧ off < 0x10000 + s.params.bufSize)) ∨
      (∃ size, s.schedule = .read size (s.params.blockBase + off) :: rest ∧
        (s.inReset = true ∨ ¬ AllowedAccess size off))))

/-! ### Reset and the invariant -/

/-- 10_state.md R60: the registers after the first reset, for every parameter, and `hazard_fault` clear. -/
def Obligations.ResetValues : Prop :=
  ∀ p : Params, ResetRegisters (State.resetWith p) ∧ (State.resetWith p).hazardFault = false ∧
    (State.resetWith p).params = p

/-- 00_scope.md R11; 70_reset_and_hazards.md R260, R261: reset asserted in any state, BUSY too, gives every register its reset value and
writes no result; while it is asserted the engine does nothing; after it is deasserted PDRE is IDLE with the same
registers. -/
def Obligations.ResetAbandonsTheCommand : Prop :=
  ∀ (s : State) (on off : Bool) (rest : List Event),
    assertsReset s.params.resetKind on = true → assertsReset s.params.resetKind off = false →
    s.schedule = .resetLine on :: .engine :: .resetLine off :: rest →
    ∃ t u : State, Sys2Proof.core.run 2 s = .next t ∧ Sys2Proof.core.run 3 s = .next u ∧
      ResetRegisters t ∧ t.inReset = true ∧ t.hazardFault = s.hazardFault ∧
      ResetRegisters u ∧ u.inReset = false ∧ u.fsm = .idle ∧ u.params = s.params ∧ u.schedule = rest

/-- Every state that PDRE has right after its first reset meets the invariant. -/
def Obligations.ResetMeetsInvariant : Prop :=
  ∀ p : Params, p.wf = true → (State.resetWith p).Inv

/-- Every step keeps the invariant, from every state that meets it. -/
def Obligations.StepKeepsInvariant : Prop :=
  ∀ s t : State, s.Inv → step s = .next t → t.Inv
end

