-- ==== Sys2Proof/Laws/State.lean ====
section
/-! SUPPORT. One lemma per field per update of the state, so that no later proof unfolds a record update. -/

namespace Sys2Proof.Machine

@[simp] theorem complete_params (s : State) (c : Completion) : (complete s c).params = s.params := rfl
@[simp] theorem complete_buf (s : State) (c : Completion) : (complete s c).buf = c.buf := rfl
@[simp] theorem complete_fsm (s : State) (c : Completion) : (complete s c).fsm = .idle := rfl
@[simp] theorem complete_latched (s : State) (c : Completion) : (complete s c).latched = s.latched := rfl
@[simp] theorem complete_lmacHiSet (s : State) (c : Completion) : (complete s c).lmacHiSet = s.lmacHiSet := rfl
@[simp] theorem complete_lmacLoSet (s : State) (c : Completion) : (complete s c).lmacLoSet = s.lmacLoSet := rfl
@[simp] theorem complete_done (s : State) (c : Completion) : (complete s c).done = true := rfl
@[simp] theorem complete_txReq (s : State) (c : Completion) : (complete s c).txReq = c.tx := rfl
@[simp] theorem complete_ovr (s : State) (c : Completion) : (complete s c).ovr = s.ovr := rfl
@[simp] theorem complete_err (s : State) (c : Completion) : (complete s c).err = c.code.isError := rfl
@[simp] theorem complete_result (s : State) (c : Completion) : (complete s c).result = c.code := rfl
@[simp] theorem complete_rxLen (s : State) (c : Completion) : (complete s c).rxLen = s.rxLen := rfl
@[simp] theorem complete_txLen (s : State) (c : Completion) : (complete s c).txLen = c.txLen := rfl
@[simp] theorem complete_lmacHi (s : State) (c : Completion) : (complete s c).lmacHi = s.lmacHi := rfl
@[simp] theorem complete_lmacLo (s : State) (c : Completion) : (complete s c).lmacLo = s.lmacLo := rfl
@[simp] theorem complete_csumOff (s : State) (c : Completion) : (complete s c).csumOff = s.csumOff := rfl
@[simp] theorem complete_csumNwords (s : State) (c : Completion) : (complete s c).csumNwords = s.csumNwords := rfl
@[simp] theorem complete_csumField (s : State) (c : Completion) : (complete s c).csumField = s.csumField := rfl
@[simp] theorem complete_csumResult (s : State) (c : Completion) : (complete s c).csumResult = c.csum.getD s.csumResult := rfl
@[simp] theorem complete_errInfo (s : State) (c : Completion) : (complete s c).errInfo = c.info := rfl
@[simp] theorem complete_errAux (s : State) (c : Completion) : (complete s c).errAux = c.aux := rfl
@[simp] theorem complete_inspect (s : State) (c : Completion) : (complete s c).inspect = c.inspect.getD s.inspect := rfl
@[simp] theorem complete_inReset (s : State) (c : Completion) : (complete s c).inReset = s.inReset := rfl
@[simp] theorem complete_hazardFault (s : State) (c : Completion) : (complete s c).hazardFault = s.hazardFault := rfl
@[simp] theorem complete_schedule (s : State) (c : Completion) : (complete s c).schedule = s.schedule := rfl
@[simp] theorem complete_reply (s : State) (c : Completion) : (complete s c).reply = s.reply := rfl
@[simp] theorem complete_draws (s : State) (c : Completion) : (complete s c).draws = s.draws := rfl

@[simp] theorem accept_params (s : State) (v : Word) : (accept s v).params = s.params := rfl
@[simp] theorem accept_buf (s : State) (v : Word) : (accept s v).buf = s.buf := rfl
@[simp] theorem accept_fsm (s : State) (v : Word) : (accept s v).fsm = .busy := rfl
@[simp] theorem accept_latched (s : State) (v : Word) : (accept s v).latched = latchOperands s v := rfl
@[simp] theorem accept_lmacHiSet (s : State) (v : Word) : (accept s v).lmacHiSet = s.lmacHiSet := rfl
@[simp] theorem accept_lmacLoSet (s : State) (v : Word) : (accept s v).lmacLoSet = s.lmacLoSet := rfl
@[simp] theorem accept_done (s : State) (v : Word) : (accept s v).done = false := rfl
@[simp] theorem accept_txReq (s : State) (v : Word) : (accept s v).txReq = false := rfl
@[simp] theorem accept_ovr (s : State) (v : Word) : (accept s v).ovr = false := rfl
@[simp] theorem accept_err (s : State) (v : Word) : (accept s v).err = false := rfl
@[simp] theorem accept_result (s : State) (v : Word) : (accept s v).result = .none := rfl
@[simp] theorem accept_rxLen (s : State) (v : Word) : (accept s v).rxLen = s.rxLen := rfl
@[simp] theorem accept_txLen (s : State) (v : Word) : (accept s v).txLen = 0#17 := rfl
@[simp] theorem accept_lmacHi (s : State) (v : Word) : (accept s v).lmacHi = s.lmacHi := rfl
@[simp] theorem accept_lmacLo (s : State) (v : Word) : (accept s v).lmacLo = s.lmacLo := rfl
@[simp] theorem accept_csumOff (s : State) (v : Word) : (accept s v).csumOff = s.csumOff := rfl
@[simp] theorem accept_csumNwords (s : State) (v : Word) : (accept s v).csumNwords = s.csumNwords := rfl
@[simp] theorem accept_csumField (s : State) (v : Word) : (accept s v).csumField = s.csumField := rfl
@[simp] theorem accept_csumResult (s : State) (v : Word) : (accept s v).csumResult = s.csumResult := rfl
@[simp] theorem accept_errInfo (s : State) (v : Word) : (accept s v).errInfo = 0#32 := rfl
@[simp] theorem accept_errAux (s : State) (v : Word) : (accept s v).errAux = 0#32 := rfl
@[simp] theorem accept_inspect (s : State) (v : Word) : (accept s v).inspect = s.inspect := rfl
@[simp] theorem accept_inReset (s : State) (v : Word) : (accept s v).inReset = s.inReset := rfl
@[simp] theorem accept_hazardFault (s : State) (v : Word) : (accept s v).hazardFault = s.hazardFault := rfl
@[simp] theorem accept_schedule (s : State) (v : Word) : (accept s v).schedule = s.schedule := rfl
@[simp] theorem accept_reply (s : State) (v : Word) : (accept s v).reply = s.reply := rfl
@[simp] theorem accept_draws (s : State) (v : Word) : (accept s v).draws = s.draws := rfl

@[simp] theorem refuseAccess_params (s : State) : (refuseAccess s).params = s.params := rfl
@[simp] theorem refuseAccess_buf (s : State) : (refuseAccess s).buf = s.buf := rfl
@[simp] theorem refuseAccess_fsm (s : State) : (refuseAccess s).fsm = s.fsm := rfl
@[simp] theorem refuseAccess_latched (s : State) : (refuseAccess s).latched = s.latched := rfl
@[simp] theorem refuseAccess_lmacHiSet (s : State) : (refuseAccess s).lmacHiSet = s.lmacHiSet := rfl
@[simp] theorem refuseAccess_lmacLoSet (s : State) : (refuseAccess s).lmacLoSet = s.lmacLoSet := rfl
@[simp] theorem refuseAccess_done (s : State) : (refuseAccess s).done = s.done := rfl
@[simp] theorem refuseAccess_txReq (s : State) : (refuseAccess s).txReq = s.txReq := rfl
@[simp] theorem refuseAccess_ovr (s : State) : (refuseAccess s).ovr = s.ovr := rfl
@[simp] theorem refuseAccess_err (s : State) : (refuseAccess s).err = s.err := rfl
@[simp] theorem refuseAccess_result (s : State) : (refuseAccess s).result = s.result := rfl
@[simp] theorem refuseAccess_rxLen (s : State) : (refuseAccess s).rxLen = s.rxLen := rfl
@[simp] theorem refuseAccess_txLen (s : State) : (refuseAccess s).txLen = s.txLen := rfl
@[simp] theorem refuseAccess_lmacHi (s : State) : (refuseAccess s).lmacHi = s.lmacHi := rfl
@[simp] theorem refuseAccess_lmacLo (s : State) : (refuseAccess s).lmacLo = s.lmacLo := rfl
@[simp] theorem refuseAccess_csumOff (s : State) : (refuseAccess s).csumOff = s.csumOff := rfl
@[simp] theorem refuseAccess_csumNwords (s : State) : (refuseAccess s).csumNwords = s.csumNwords := rfl
@[simp] theorem refuseAccess_csumField (s : State) : (refuseAccess s).csumField = s.csumField := rfl
@[simp] theorem refuseAccess_csumResult (s : State) : (refuseAccess s).csumResult = s.csumResult := rfl
@[simp] theorem refuseAccess_errInfo (s : State) : (refuseAccess s).errInfo = s.errInfo := rfl
@[simp] theorem refuseAccess_errAux (s : State) : (refuseAccess s).errAux = s.errAux := rfl
@[simp] theorem refuseAccess_inspect (s : State) : (refuseAccess s).inspect = s.inspect := rfl
@[simp] theorem refuseAccess_inReset (s : State) : (refuseAccess s).inReset = s.inReset := rfl
@[simp] theorem refuseAccess_hazardFault (s : State) : (refuseAccess s).hazardFault = true := rfl
@[simp] theorem refuseAccess_schedule (s : State) : (refuseAccess s).schedule = s.schedule := rfl
@[simp] theorem refuseAccess_reply (s : State) : (refuseAccess s).reply = .refused := rfl
@[simp] theorem refuseAccess_draws (s : State) : (refuseAccess s).draws = s.draws := rfl

@[simp] theorem clearRegisters_params (s : State) : (clearRegisters s).params = s.params := rfl
@[simp] theorem clearRegisters_buf (s : State) : (clearRegisters s).buf = s.buf := rfl
@[simp] theorem clearRegisters_fsm (s : State) : (clearRegisters s).fsm = .idle := rfl
@[simp] theorem clearRegisters_latched (s : State) : (clearRegisters s).latched = Latched.reset := rfl
@[simp] theorem clearRegisters_lmacHiSet (s : State) : (clearRegisters s).lmacHiSet = false := rfl
@[simp] theorem clearRegisters_lmacLoSet (s : State) : (clearRegisters s).lmacLoSet = false := rfl
@[simp] theorem clearRegisters_done (s : State) : (clearRegisters s).done = false := rfl
@[simp] theorem clearRegisters_txReq (s : State) : (clearRegisters s).txReq = false := rfl
@[simp] theorem clearRegisters_ovr (s : State) : (clearRegisters s).ovr = false := rfl
@[simp] theorem clearRegisters_err (s : State) : (clearRegisters s).err = false := rfl
@[simp] theorem clearRegisters_result (s : State) : (clearRegisters s).result = .none := rfl
@[simp] theorem clearRegisters_rxLen (s : State) : (clearRegisters s).rxLen = 0#16 := rfl
@[simp] theorem clearRegisters_txLen (s : State) : (clearRegisters s).txLen = 0#17 := rfl
@[simp] theorem clearRegisters_lmacHi (s : State) : (clearRegisters s).lmacHi = 0#16 := rfl
@[simp] theorem clearRegisters_lmacLo (s : State) : (clearRegisters s).lmacLo = 0#32 := rfl
@[simp] theorem clearRegisters_csumOff (s : State) : (clearRegisters s).csumOff = 0#16 := rfl
@[simp] theorem clearRegisters_csumNwords (s : State) : (clearRegisters s).csumNwords = 0#16 := rfl
@[simp] theorem clearRegisters_csumField (s : State) : (clearRegisters s).csumField = 0#16 := rfl
@[simp] theorem clearRegisters_csumResult (s : State) : (clearRegisters s).csumResult = 0#16 := rfl
@[simp] theorem clearRegisters_errInfo (s : State) : (clearRegisters s).errInfo = 0#32 := rfl
@[simp] theorem clearRegisters_errAux (s : State) : (clearRegisters s).errAux = 0#32 := rfl
@[simp] theorem clearRegisters_inspect (s : State) : (clearRegisters s).inspect = Inspect.reset := rfl
@[simp] theorem clearRegisters_inReset (s : State) : (clearRegisters s).inReset = s.inReset := rfl
@[simp] theorem clearRegisters_hazardFault (s : State) : (clearRegisters s).hazardFault = s.hazardFault := rfl
@[simp] theorem clearRegisters_schedule (s : State) : (clearRegisters s).schedule = s.schedule := rfl
@[simp] theorem clearRegisters_reply (s : State) : (clearRegisters s).reply = s.reply := rfl
@[simp] theorem clearRegisters_draws (s : State) : (clearRegisters s).draws = s.draws := rfl

@[simp] theorem assertReset_params (s : State) : (assertReset s).params = s.params := rfl
@[simp] theorem assertReset_buf (s : State) : (assertReset s).buf = { cells := [], epoch := s.buf.epoch + 1 } := rfl
@[simp] theorem assertReset_fsm (s : State) : (assertReset s).fsm = .idle := rfl
@[simp] theorem assertReset_latched (s : State) : (assertReset s).latched = Latched.reset := rfl
@[simp] theorem assertReset_lmacHiSet (s : State) : (assertReset s).lmacHiSet = false := rfl
@[simp] theorem assertReset_lmacLoSet (s : State) : (assertReset s).lmacLoSet = false := rfl
@[simp] theorem assertReset_done (s : State) : (assertReset s).done = false := rfl
@[simp] theorem assertReset_txReq (s : State) : (assertReset s).txReq = false := rfl
@[simp] theorem assertReset_ovr (s : State) : (assertReset s).ovr = false := rfl
@[simp] theorem assertReset_err (s : State) : (assertReset s).err = false := rfl
@[simp] theorem assertReset_result (s : State) : (assertReset s).result = .none := rfl
@[simp] theorem assertReset_rxLen (s : State) : (assertReset s).rxLen = 0#16 := rfl
@[simp] theorem assertReset_txLen (s : State) : (assertReset s).txLen = 0#17 := rfl
@[simp] theorem assertReset_lmacHi (s : State) : (assertReset s).lmacHi = 0#16 := rfl
@[simp] theorem assertReset_lmacLo (s : State) : (assertReset s).lmacLo = 0#32 := rfl
@[simp] theorem assertReset_csumOff (s : State) : (assertReset s).csumOff = 0#16 := rfl
@[simp] theorem assertReset_csumNwords (s : State) : (assertReset s).csumNwords = 0#16 := rfl
@[simp] theorem assertReset_csumField (s : State) : (assertReset s).csumField = 0#16 := rfl
@[simp] theorem assertReset_csumResult (s : State) : (assertReset s).csumResult = 0#16 := rfl
@[simp] theorem assertReset_errInfo (s : State) : (assertReset s).errInfo = 0#32 := rfl
@[simp] theorem assertReset_errAux (s : State) : (assertReset s).errAux = 0#32 := rfl
@[simp] theorem assertReset_inspect (s : State) : (assertReset s).inspect = Inspect.reset := rfl
@[simp] theorem assertReset_inReset (s : State) : (assertReset s).inReset = true := rfl
@[simp] theorem assertReset_hazardFault (s : State) : (assertReset s).hazardFault = s.hazardFault := rfl
@[simp] theorem assertReset_schedule (s : State) : (assertReset s).schedule = s.schedule := rfl
@[simp] theorem assertReset_reply (s : State) : (assertReset s).reply = s.reply := rfl
@[simp] theorem assertReset_draws (s : State) : (assertReset s).draws = s.draws := rfl

@[simp] theorem State.withSchedule_params (s : State) (es : List Event) : (s.withSchedule es).params = s.params := rfl
@[simp] theorem State.withSchedule_buf (s : State) (es : List Event) : (s.withSchedule es).buf = s.buf := rfl
@[simp] theorem State.withSchedule_fsm (s : State) (es : List Event) : (s.withSchedule es).fsm = s.fsm := rfl
@[simp] theorem State.withSchedule_latched (s : State) (es : List Event) : (s.withSchedule es).latched = s.latched := rfl
@[simp] theorem State.withSchedule_lmacHiSet (s : State) (es : List Event) : (s.withSchedule es).lmacHiSet = s.lmacHiSet := rfl
@[simp] theorem State.withSchedule_lmacLoSet (s : State) (es : List Event) : (s.withSchedule es).lmacLoSet = s.lmacLoSet := rfl
@[simp] theorem State.withSchedule_done (s : State) (es : List Event) : (s.withSchedule es).done = s.done := rfl
@[simp] theorem State.withSchedule_txReq (s : State) (es : List Event) : (s.withSchedule es).txReq = s.txReq := rfl
@[simp] theorem State.withSchedule_ovr (s : State) (es : List Event) : (s.withSchedule es).ovr = s.ovr := rfl
@[simp] theorem State.withSchedule_err (s : State) (es : List Event) : (s.withSchedule es).err = s.err := rfl
@[simp] theorem State.withSchedule_result (s : State) (es : List Event) : (s.withSchedule es).result = s.result := rfl
@[simp] theorem State.withSchedule_rxLen (s : State) (es : List Event) : (s.withSchedule es).rxLen = s.rxLen := rfl
@[simp] theorem State.withSchedule_txLen (s : State) (es : List Event) : (s.withSchedule es).txLen = s.txLen := rfl
@[simp] theorem State.withSchedule_lmacHi (s : State) (es : List Event) : (s.withSchedule es).lmacHi = s.lmacHi := rfl
@[simp] theorem State.withSchedule_lmacLo (s : State) (es : List Event) : (s.withSchedule es).lmacLo = s.lmacLo := rfl
@[simp] theorem State.withSchedule_csumOff (s : State) (es : List Event) : (s.withSchedule es).csumOff = s.csumOff := rfl
@[simp] theorem State.withSchedule_csumNwords (s : State) (es : List Event) : (s.withSchedule es).csumNwords = s.csumNwords := rfl
@[simp] theorem State.withSchedule_csumField (s : State) (es : List Event) : (s.withSchedule es).csumField = s.csumField := rfl
@[simp] theorem State.withSchedule_csumResult (s : State) (es : List Event) : (s.withSchedule es).csumResult = s.csumResult := rfl
@[simp] theorem State.withSchedule_errInfo (s : State) (es : List Event) : (s.withSchedule es).errInfo = s.errInfo := rfl
@[simp] theorem State.withSchedule_errAux (s : State) (es : List Event) : (s.withSchedule es).errAux = s.errAux := rfl
@[simp] theorem State.withSchedule_inspect (s : State) (es : List Event) : (s.withSchedule es).inspect = s.inspect := rfl
@[simp] theorem State.withSchedule_inReset (s : State) (es : List Event) : (s.withSchedule es).inReset = s.inReset := rfl
@[simp] theorem State.withSchedule_hazardFault (s : State) (es : List Event) : (s.withSchedule es).hazardFault = s.hazardFault := rfl
@[simp] theorem State.withSchedule_schedule (s : State) (es : List Event) : (s.withSchedule es).schedule = es := rfl
@[simp] theorem State.withSchedule_reply (s : State) (es : List Event) : (s.withSchedule es).reply = s.reply := rfl
@[simp] theorem State.withSchedule_draws (s : State) (es : List Event) : (s.withSchedule es).draws = s.draws := rfl

@[simp] theorem deassertReset_params (s : State) : (deassertReset s).params = s.params := rfl
@[simp] theorem deassertReset_buf (s : State) : (deassertReset s).buf = s.buf := rfl
@[simp] theorem deassertReset_fsm (s : State) : (deassertReset s).fsm = s.fsm := rfl
@[simp] theorem deassertReset_latched (s : State) : (deassertReset s).latched = s.latched := rfl
@[simp] theorem deassertReset_lmacHiSet (s : State) : (deassertReset s).lmacHiSet = s.lmacHiSet := rfl
@[simp] theorem deassertReset_lmacLoSet (s : State) : (deassertReset s).lmacLoSet = s.lmacLoSet := rfl
@[simp] theorem deassertReset_done (s : State) : (deassertReset s).done = s.done := rfl
@[simp] theorem deassertReset_txReq (s : State) : (deassertReset s).txReq = s.txReq := rfl
@[simp] theorem deassertReset_ovr (s : State) : (deassertReset s).ovr = s.ovr := rfl
@[simp] theorem deassertReset_err (s : State) : (deassertReset s).err = s.err := rfl
@[simp] theorem deassertReset_result (s : State) : (deassertReset s).result = s.result := rfl
@[simp] theorem deassertReset_rxLen (s : State) : (deassertReset s).rxLen = s.rxLen := rfl
@[simp] theorem deassertReset_txLen (s : State) : (deassertReset s).txLen = s.txLen := rfl
@[simp] theorem deassertReset_lmacHi (s : State) : (deassertReset s).lmacHi = s.lmacHi := rfl
@[simp] theorem deassertReset_lmacLo (s : State) : (deassertReset s).lmacLo = s.lmacLo := rfl
@[simp] theorem deassertReset_csumOff (s : State) : (deassertReset s).csumOff = s.csumOff := rfl
@[simp] theorem deassertReset_csumNwords (s : State) : (deassertReset s).csumNwords = s.csumNwords := rfl
@[simp] theorem deassertReset_csumField (s : State) : (deassertReset s).csumField = s.csumField := rfl
@[simp] theorem deassertReset_csumResult (s : State) : (deassertReset s).csumResult = s.csumResult := rfl
@[simp] theorem deassertReset_errInfo (s : State) : (deassertReset s).errInfo = s.errInfo := rfl
@[simp] theorem deassertReset_errAux (s : State) : (deassertReset s).errAux = s.errAux := rfl
@[simp] theorem deassertReset_inspect (s : State) : (deassertReset s).inspect = s.inspect := rfl
@[simp] theorem deassertReset_inReset (s : State) : (deassertReset s).inReset = false := rfl
@[simp] theorem deassertReset_hazardFault (s : State) : (deassertReset s).hazardFault = s.hazardFault := rfl
@[simp] theorem deassertReset_schedule (s : State) : (deassertReset s).schedule = s.schedule := rfl
@[simp] theorem deassertReset_reply (s : State) : (deassertReset s).reply = s.reply := rfl
@[simp] theorem deassertReset_draws (s : State) : (deassertReset s).draws = s.draws := rfl

@[simp] theorem finish_code (m : Memory) (code : ResultCode) (info aux : Word) : (finish m code info aux).code = code := rfl
@[simp] theorem finish_info (m : Memory) (code : ResultCode) (info aux : Word) : (finish m code info aux).info = info := rfl
@[simp] theorem finish_aux (m : Memory) (code : ResultCode) (info aux : Word) : (finish m code info aux).aux = aux := rfl
@[simp] theorem finish_txLen (m : Memory) (code : ResultCode) (info aux : Word) : (finish m code info aux).txLen = 0#17 := rfl
@[simp] theorem finish_tx (m : Memory) (code : ResultCode) (info aux : Word) : (finish m code info aux).tx = false := rfl
@[simp] theorem finish_buf (m : Memory) (code : ResultCode) (info aux : Word) : (finish m code info aux).buf = m := rfl
@[simp] theorem finish_csum (m : Memory) (code : ResultCode) (info aux : Word) : (finish m code info aux).csum = none := rfl
@[simp] theorem finish_inspect (m : Memory) (code : ResultCode) (info aux : Word) : (finish m code info aux).inspect = none := rfl

@[simp] theorem finishTx_code (m : Memory) (code : ResultCode) (len : Nat) : (finishTx m code len).code = code := rfl
@[simp] theorem finishTx_info (m : Memory) (code : ResultCode) (len : Nat) : (finishTx m code len).info = 0#32 := rfl
@[simp] theorem finishTx_aux (m : Memory) (code : ResultCode) (len : Nat) : (finishTx m code len).aux = 0#32 := rfl
@[simp] theorem finishTx_txLen (m : Memory) (code : ResultCode) (len : Nat) : (finishTx m code len).txLen = BitVec.ofNat 17 len := rfl
@[simp] theorem finishTx_tx (m : Memory) (code : ResultCode) (len : Nat) : (finishTx m code len).tx = true := rfl
@[simp] theorem finishTx_buf (m : Memory) (code : ResultCode) (len : Nat) : (finishTx m code len).buf = m := rfl
@[simp] theorem finishTx_csum (m : Memory) (code : ResultCode) (len : Nat) : (finishTx m code len).csum = none := rfl
@[simp] theorem finishTx_inspect (m : Memory) (code : ResultCode) (len : Nat) : (finishTx m code len).inspect = none := rfl

@[simp] theorem raise_code (s : State) (code : ResultCode) (info aux : Word) : (raise s code info aux).code = code := rfl
@[simp] theorem raise_info (s : State) (code : ResultCode) (info aux : Word) : (raise s code info aux).info = info := rfl
@[simp] theorem raise_aux (s : State) (code : ResultCode) (info aux : Word) : (raise s code info aux).aux = aux := rfl
@[simp] theorem raise_txLen (s : State) (code : ResultCode) (info aux : Word) : (raise s code info aux).txLen = 0#17 := rfl
@[simp] theorem raise_tx (s : State) (code : ResultCode) (info aux : Word) : (raise s code info aux).tx = false := rfl
@[simp] theorem raise_buf (s : State) (code : ResultCode) (info aux : Word) : (raise s code info aux).buf = s.buf := rfl
@[simp] theorem raise_csum (s : State) (code : ResultCode) (info aux : Word) : (raise s code info aux).csum = none := rfl
@[simp] theorem raise_inspect (s : State) (code : ResultCode) (info aux : Word) : (raise s code info aux).inspect = none := rfl

end Sys2Proof.Machine
end

