-- ==== Sys2Proof/Laws/Memory.lean ====
section
/-! SUPPORT. The frame buffer: a read after a write, and the canonical form that every operation keeps. -/

namespace Sys2Proof.Machine

theorem findCell_insertCell (l : List Host.Cell) (a : Nat) (b : Byte) (c : Nat) :
    findCell (insertCell l a b) c = if c = a then some b else findCell l c := by
  by_cases hc : c = a
  · subst hc
    induction l with
    | nil => simp [insertCell, findCell]
    | cons p rest ih =>
      obtain ⟨k, v⟩ := p
      simp only [insertCell]
      split
      · simp [findCell]
      · split
        · simp [findCell]
        · rename_i h1 h2
          simp only [findCell, if_neg (Ne.symm h2), ih]
  · have hc' : ¬ a = c := fun h => hc h.symm
    induction l with
    | nil => simp [insertCell, findCell, hc, hc']
    | cons p rest ih =>
      obtain ⟨k, v⟩ := p
      simp only [insertCell]
      split
      · simp [findCell, hc']
      · split
        · rename_i h1 h2
          subst h2
          simp [findCell, hc']
        · simp only [findCell, ih, if_neg hc]

theorem risingFrom_insertCell (l : List Host.Cell) (low a : Nat) (b : Byte) (h : risingFrom low l = true)
    (hl : low ≤ a) : risingFrom low (insertCell l a b) = true := by
  induction l generalizing low with
  | nil => simp [insertCell, risingFrom, hl]
  | cons p rest ih =>
    obtain ⟨k, v⟩ := p
    simp only [risingFrom, Bool.and_eq_true, decide_eq_true_eq] at h
    simp only [insertCell]
    split
    · simp only [risingFrom, Bool.and_eq_true, decide_eq_true_eq]
      exact ⟨hl, by omega, h.2⟩
    · split
      · simp only [risingFrom, Bool.and_eq_true, decide_eq_true_eq]
        refine ⟨hl, ?_⟩
        subst_vars
        exact h.2
      · simp only [risingFrom, Bool.and_eq_true, decide_eq_true_eq]
        exact ⟨h.1, ih (k + 1) h.2 (by omega)⟩

theorem all_insertCell (size : Nat) (l : List Host.Cell) (a : Nat) (b : Byte) (ha : a < size)
    (h : (l.all fun c => decide (c.1 < size)) = true) :
    ((insertCell l a b).all fun c => decide (c.1 < size)) = true := by
  induction l with
  | nil => simp [insertCell, ha]
  | cons p rest ih =>
    obtain ⟨k, v⟩ := p
    simp only [List.all_cons, Bool.and_eq_true, decide_eq_true_eq] at h
    simp only [insertCell]
    split
    · simp [ha, h.1, h.2]
    · split
      · simp [ha, h.2]
      · simp [h.1, ih h.2]

/-! ### One byte -/

theorem byte_setByte (m : Memory) (a : Nat) (b : Byte) (c : Nat) :
    (m.setByte a b).byte c = if c = a then b else m.byte c := by
  simp only [Memory.byte, Memory.setByte, findCell_insertCell]
  split <;> rfl

@[simp] theorem byte_setByte_same (m : Memory) (a : Nat) (b : Byte) : (m.setByte a b).byte a = b := by
  simp [byte_setByte]

theorem byte_setByte_other (m : Memory) (a : Nat) (b : Byte) (c : Nat) (h : c ≠ a) :
    (m.setByte a b).byte c = m.byte c := by
  simp [byte_setByte, h]

@[simp] theorem epoch_setByte (m : Memory) (a : Nat) (b : Byte) : (m.setByte a b).epoch = m.epoch := rfl

theorem wf_setByte (m : Memory) (a : Nat) (b : Byte) (h : m.wf = true) : (m.setByte a b).wf = true :=
  risingFrom_insertCell m.cells 0 a b h (Nat.zero_le a)

theorem within_setByte (size : Nat) (m : Memory) (a : Nat) (b : Byte) (ha : a < size)
    (h : m.within size = true) : (m.setByte a b).within size = true :=
  all_insertCell size m.cells a b ha h

/-! ### Byte sequences -/

@[simp] theorem bytes_length (m : Memory) (a n : Nat) : (m.bytes a n).length = n := by
  induction n generalizing a with
  | zero => rfl
  | succ n ih => simp [Memory.bytes, ih]

theorem bytes_getD (m : Memory) (a n k : Nat) (h : k < n) : (m.bytes a n).getD k 0#8 = m.byte (a + k) := by
  induction n generalizing a k with
  | zero => omega
  | succ n ih =>
    cases k with
    | zero => rfl
    | succ k =>
      simp only [Memory.bytes, List.getD_cons_succ]
      rw [ih (a + 1) k (by omega)]
      congr 1
      omega

theorem byte_setBytes (m : Memory) (a : Nat) (l : List Byte) (c : Nat) :
    (m.setBytes a l).byte c = if a ≤ c ∧ c < a + l.length then l.getD (c - a) 0#8 else m.byte c := by
  induction l generalizing m a with
  | nil => simp [Memory.setBytes]
  | cons b rest ih =>
    simp only [Memory.setBytes, ih, byte_setByte, List.length_cons]
    by_cases hc : c = a
    · subst hc
      rw [if_neg (by omega), if_pos rfl, if_pos (by omega)]
      simp
    · by_cases hin : a + 1 ≤ c ∧ c < a + 1 + rest.length
      · rw [if_pos hin, if_pos (by omega)]
        obtain ⟨k, hk⟩ : ∃ k, c - a = k + 1 := ⟨c - a - 1, by omega⟩
        rw [hk, List.getD_cons_succ]
        congr 1
        omega
      · rw [if_neg hin, if_neg hc, if_neg (by omega)]

theorem byte_setBytes_outside (m : Memory) (a : Nat) (l : List Byte) (c : Nat)
    (h : c < a ∨ a + l.length ≤ c) : (m.setBytes a l).byte c = m.byte c := by
  rw [byte_setBytes, if_neg (by omega)]

@[simp] theorem epoch_setBytes (m : Memory) (a : Nat) (l : List Byte) : (m.setBytes a l).epoch = m.epoch := by
  induction l generalizing m a with
  | nil => rfl
  | cons b rest ih => simp [Memory.setBytes, ih]

theorem wf_setBytes (m : Memory) (a : Nat) (l : List Byte) (h : m.wf = true) : (m.setBytes a l).wf = true := by
  induction l generalizing m a with
  | nil => exact h
  | cons b rest ih => exact ih _ _ (wf_setByte m a b h)

theorem within_setBytes (size : Nat) (m : Memory) (a : Nat) (l : List Byte) (ha : a + l.length ≤ size)
    (h : m.within size = true) : (m.setBytes a l).within size = true := by
  induction l generalizing m a with
  | nil => exact h
  | cons b rest ih =>
    simp only [List.length_cons] at ha
    exact ih _ _ (by omega) (within_setByte size m a b (by omega) h)

/-! ### Big-endian fields -/

theorem byte_setBE16 (m : Memory) (a : Nat) (v : Half) (c : Nat) :
    (m.setBE16 a v).byte c =
      if c = a + 1 then v.extractLsb' 0 8 else if c = a then v.extractLsb' 8 8 else m.byte c := by
  simp only [Memory.setBE16, byte_setByte]

theorem byte_setBE16_outside (m : Memory) (a : Nat) (v : Half) (c : Nat) (h : c ≠ a) (h' : c ≠ a + 1) :
    (m.setBE16 a v).byte c = m.byte c := by
  rw [byte_setBE16, if_neg h', if_neg h]

theorem append_extract_half (v : Half) : (v.extractLsb' 8 8 ++ v.extractLsb' 0 8 : BitVec 16) = v := by
  ext i hi
  simp only [BitVec.getElem_append, BitVec.getElem_extractLsb']
  split
  · simp [BitVec.getLsbD_eq_getElem hi]
  · have : 8 + (i - 8) = i := by omega
    simp [this, BitVec.getLsbD_eq_getElem hi]

@[simp] theorem be16_setBE16_same (m : Memory) (a : Nat) (v : Half) : (m.setBE16 a v).be16 a = v := by
  simp only [Memory.be16, byte_setBE16, if_true]
  rw [if_neg (by omega)]
  exact append_extract_half v

theorem be16_setBE16_other (m : Memory) (a : Nat) (v : Half) (c : Nat) (h : c + 1 < a ∨ a + 1 < c) :
    (m.setBE16 a v).be16 c = m.be16 c := by
  simp only [Memory.be16]
  rw [byte_setBE16_outside _ _ _ _ (by omega) (by omega), byte_setBE16_outside _ _ _ _ (by omega) (by omega)]

theorem wf_setBE16 (m : Memory) (a : Nat) (v : Half) (h : m.wf = true) : (m.setBE16 a v).wf = true :=
  wf_setByte _ _ _ (wf_setByte m a _ h)

theorem within_setBE16 (size : Nat) (m : Memory) (a : Nat) (v : Half) (ha : a + 2 ≤ size)
    (h : m.within size = true) : (m.setBE16 a v).within size = true :=
  within_setByte _ _ _ _ (by omega) (within_setByte size m a _ (by omega) h)

theorem be16_congr (m m' : Memory) (a : Nat) (h : m'.byte a = m.byte a) (h' : m'.byte (a + 1) = m.byte (a + 1)) :
    m'.be16 a = m.be16 a := by
  simp [Memory.be16, h, h']

/-! ### Host lanes -/

@[simp] theorem laneBytes_length (v : Word) (n : Nat) : (laneBytes v n).length = n := by
  induction n generalizing v with
  | zero => rfl
  | succ n ih => simp [laneBytes, ih]

/-- Lane `k` of a host write is byte `k` of its data (20_memory.md R82). -/
theorem laneBytes_getD (v : Word) (n k : Nat) (h : k < n) : (laneBytes v n).getD k 0#8 = v.extractLsb' (8 * k) 8 := by
  induction n generalizing v k with
  | zero => omega
  | succ n ih =>
    cases k with
    | zero => rfl
    | succ k =>
      simp only [laneBytes, List.getD_cons_succ]
      rw [ih _ _ (by omega)]
      apply BitVec.eq_of_toNat_eq
      simp only [BitVec.extractLsb'_toNat, BitVec.toNat_ushiftRight, ← Nat.shiftRight_add]
      rw [show 8 + 8 * k = 8 * (k + 1) by omega]

end Sys2Proof.Machine
end

