-- ==== Sys2Proof/Laws/Checksum.lean ====
section
/-! SUPPORT. The Checksum primitive as arithmetic on numbers, and what construction does to the buffer. -/

namespace Sys2Proof.Machine

/-- The low and the high half of an accumulator, as numbers. -/
theorem foldOnce_toNat (acc : Word) : (foldOnce acc).toNat = acc.toNat % 65536 + acc.toNat / 65536 := by
  have hb := acc.isLt
  have hq : acc.toNat / 65536 < 65536 := by omega
  have hr : acc.toNat % 65536 < 65536 := by omega
  simp only [foldOnce, BitVec.toNat_add, BitVec.truncate_eq_setWidth, BitVec.toNat_setWidth,
    BitVec.extractLsb'_toNat, Nat.shiftRight_eq_div_pow, Nat.reducePow, Nat.div_one]
  rw [Nat.mod_eq_of_lt hq]
  omega

theorem high_zero_iff (acc : Word) : acc.extractLsb' 16 16 = 0#16 ↔ acc.toNat < 65536 := by
  have hb := acc.isLt
  have hq : acc.toNat / 65536 < 65536 := by omega
  rw [← BitVec.toNat_inj]
  simp only [BitVec.extractLsb'_toNat, Nat.shiftRight_eq_div_pow, BitVec.toNat_ofNat, Nat.reducePow]
  omega

/-- What two passes of the fold loop leave, for every accumulator (40_checksum.md R142). -/
theorem foldCarries_two_toNat (acc : Word) :
    (foldCarries 2 acc).toNat = if acc.toNat = 0 then 0 else 1 + (acc.toNat - 1) % 65535 := by
  have hb := acc.isLt
  have h1 := foldOnce_toNat acc
  have h2 := foldOnce_toNat (foldOnce acc)
  simp only [foldCarries]
  split
  · rename_i h; rw [high_zero_iff] at h; split <;> omega
  · rename_i h; rw [high_zero_iff] at h
    split
    · rename_i h'; rw [high_zero_iff] at h'; split <;> omega
    · rename_i h'; rw [high_zero_iff] at h'; split <;> omega

/-- The checksum from the accumulator alone. -/
theorem checksum_toNat (m : Memory) (a n : Nat) :
    (checksum m a n).toNat = 65535 - (foldCarries 2 (sumWords m a n)).toNat := by
  have h := foldCarries_two_toNat (sumWords m a n)
  have hlt : (foldCarries 2 (sumWords m a n)).toNat < 65536 := by
    rw [h]; split <;> omega
  simp only [checksum, BitVec.toNat_not, BitVec.extractLsb'_toNat, Nat.shiftRight_zero, Nat.reducePow]
  omega

/-- The accumulator reads the bytes of the span only. -/
theorem sumWords_congr (m m' : Memory) (a n : Nat)
    (h : ∀ b, a ≤ b → b < a + 2 * n → m'.byte b = m.byte b) : sumWords m' a n = sumWords m a n := by
  induction n with
  | zero => rfl
  | succ n ih =>
    simp only [sumWords]
    rw [ih fun b h1 h2 => h b h1 (by omega),
      be16_congr m m' _ (h _ (by omega) (by omega)) (h _ (by omega) (by omega))]

theorem checksum_congr (m m' : Memory) (a n : Nat)
    (h : ∀ b, a ≤ b → b < a + 2 * n → m'.byte b = m.byte b) : checksum m' a n = checksum m a n := by
  simp only [checksum, sumWords_congr m m' a n h]

/-! ### Construction -/

theorem byte_construct (m : Memory) (a n f c : Nat) :
    (construct m a n f).byte c =
      if c = f + 1 then (checksum (m.setBE16 f 0#16) a n).extractLsb' 0 8
      else if c = f then (checksum (m.setBE16 f 0#16) a n).extractLsb' 8 8
      else m.byte c := by
  simp only [construct, byte_setBE16]
  split
  · rfl
  · split <;> rfl

theorem byte_construct_outside (m : Memory) (a n f c : Nat) (h : c ≠ f) (h' : c ≠ f + 1) :
    (construct m a n f).byte c = m.byte c := by
  rw [byte_construct, if_neg h', if_neg h]

theorem be16_construct_same (m : Memory) (a n f : Nat) :
    (construct m a n f).be16 f = checksum (m.setBE16 f 0#16) a n := by
  simp [construct]

theorem wf_construct (m : Memory) (a n f : Nat) (h : m.wf = true) : (construct m a n f).wf = true :=
  wf_setBE16 _ _ _ (wf_setBE16 m f _ h)

theorem within_construct (size : Nat) (m : Memory) (a n f : Nat) (hf : f + 2 ≤ size)
    (h : m.within size = true) : (construct m a n f).within size = true :=
  within_setBE16 _ _ _ _ hf (within_setBE16 size m f _ hf h)

end Sys2Proof.Machine
end

