-- ==== Sys2Proof/Laws/Ops.lean ====
section
/-! SUPPORT. What each shared operation can do, said once: the checks, the stages of PROCESS, and one step. -/

namespace Sys2Proof.Machine

/-! ### The checks -/

theorem need_of_le (s : State) (k : Nat) (c : Completion) (h : k ≤ s.latched.rxLen.toNat) : need s k c = c := by
  simp [need, Nat.not_lt.mpr h]

theorem need_of_lt (s : State) (k : Nat) (c : Completion) (h : s.latched.rxLen.toNat < k) :
    need s k c = raise s .eTrunc (s.latched.rxLen.zeroExtend 32) (BitVec.ofNat 32 k) := by
  simp [need, h]

/-- `need` reports E_TRUNC or goes on with the length it asked for. -/
theorem need_cases (s : State) (k : Nat) (c : Completion) :
    need s k c = raise s .eTrunc (s.latched.rxLen.zeroExtend 32) (BitVec.ofNat 32 k) ∨
    k ≤ s.latched.rxLen.toNat ∧ need s k c = c := by
  rcases Nat.lt_or_ge s.latched.rxLen.toNat k with h | h
  · exact .inl (need_of_lt s k c h)
  · exact .inr ⟨h, need_of_le s k c h⟩

theorem rxLenGate_of_le (s : State) (c : Completion) (h : s.latched.rxLen.toNat ≤ s.params.bufSize - 2) :
    rxLenGate s c = c := by
  simp [rxLenGate, Nat.not_lt.mpr h]

/-- `rxLenGate` reports E_RXLEN or goes on with a frame that fits the buffer. -/
theorem rxLenGate_cases (s : State) (c : Completion) :
    rxLenGate s c =
      raise s .eRxlen (s.latched.rxLen.zeroExtend 32) (BitVec.ofNat 32 (s.params.bufSize - 2)) ∨
    s.latched.rxLen.toNat ≤ s.params.bufSize - 2 ∧ rxLenGate s c = c := by
  unfold rxLenGate
  split
  · exact .inl rfl
  · exact .inr ⟨by omega, rfl⟩

/-! ### Buffers of the rewrites keep the canonical form -/

theorem wf_arpRewrite (m : Memory) (lmac : BitVec 48) (h : m.wf = true) : (arpRewrite m lmac).wf = true := by
  unfold arpRewrite
  exact wf_setBytes _ _ _ (wf_setBytes _ _ _ (wf_setBytes _ _ _ (wf_setBytes _ _ _ (wf_setBE16 _ _ _
    (wf_setBytes _ _ _ (wf_setBytes _ _ _ (wf_setBytes _ _ _ h)))))))

theorem wf_icmpRewrite (m : Memory) (lmac : BitVec 48) (h t n : Nat) (hm : m.wf = true) :
    (icmpRewrite m lmac h t n).wf = true := by
  unfold icmpRewrite icmpSwapMacs icmpSwapAddresses
  exact wf_construct _ _ _ _ (wf_setByte _ _ _ (wf_construct _ _ _ _ (wf_setBytes _ _ _ (wf_setBytes _ _ _
    (wf_setBytes _ _ _ (wf_setBytes _ _ _ (wf_setBytes _ _ _ hm)))))))

@[simp] theorem macBytes_length (v : BitVec 48) : (macBytes v).length = 6 := rfl

theorem within_arpRewrite (size : Nat) (m : Memory) (lmac : BitVec 48) (hs : 44 ≤ size)
    (h : m.within size = true) : (arpRewrite m lmac).within size = true := by
  unfold arpRewrite
  refine within_setBytes _ _ _ _ ?_ (within_setBytes _ _ _ _ ?_ (within_setBytes _ _ _ _ ?_
    (within_setBytes _ _ _ _ ?_ (within_setBE16 _ _ _ _ ?_ (within_setBytes _ _ _ _ ?_
    (within_setBytes _ _ _ _ ?_ (within_setBytes _ _ _ _ ?_ h))))))) <;>
    (try simp only [bytes_length, macBytes_length]) <;> omega

theorem within_icmpRewrite (size : Nat) (m : Memory) (lmac : BitVec 48) (h t n : Nat) (hs : 36 ≤ size)
    (ht : t + 4 ≤ size) (hm : m.within size = true) : (icmpRewrite m lmac h t n).within size = true := by
  unfold icmpRewrite icmpSwapMacs icmpSwapAddresses
  refine within_construct _ _ _ _ _ ?_ (within_setByte _ _ _ _ ?_ (within_construct _ _ _ _ _ ?_
    (within_setBytes _ _ _ _ ?_ (within_setBytes _ _ _ _ ?_ (within_setBytes _ _ _ _ ?_
    (within_setBytes _ _ _ _ ?_ (within_setBytes _ _ _ _ ?_ hm))))))) <;>
    (try simp only [bytes_length, macBytes_length]) <;> omega

/-! ### The stages -/

/-- A command ended in an error: it reports and changes nothing else (60_exceptions.md R234). -/
def Raised (s : State) (c : Completion) : Prop := ∃ code info aux, code.isError = true ∧ c = raise s code info aux

/-- The three ways PROCESS succeeds, each with what its stage has checked. -/
def Succeeded (s : State) (c : Completion) : Prop :=
  (42 ≤ s.latched.rxLen.toNat ∧ s.latched.lmacValid = true ∧
    c = finishTx (arpRewrite s.buf s.latched.lmac) .okArpReply 48) ∨
  (34 ≤ s.latched.rxLen.toNat ∧ 4 * ihl s.buf + 8 ≤ totalLength s.buf ∧ 14 + totalLength s.buf ≤ s.latched.rxLen.toNat ∧
    s.latched.lmacValid = true ∧
    c = finishTx (icmpRewrite s.buf s.latched.lmac (ihl s.buf) (l4 s.buf) (icmpWords s.buf)) .okIcmpReply
      (ceil8 (totalLength s.buf + 16))) ∨
  (34 ≤ udpLength s.buf ∧ 14 + 4 * ihl s.buf + udpLength s.buf ≤ s.latched.rxLen.toNat ∧
    c = { finish s.buf .okUdpInspected 0#32 0#32 with inspect := some (udpFields s.buf) })

theorem raised_raise (s : State) (code : ResultCode) (info aux : Word) (h : code.isError = true) :
    Raised s (raise s code info aux) := ⟨code, info, aux, h, rfl⟩

theorem need_ends (s : State) (k : Nat) (c : Completion) (P : Completion → Prop)
    (h : k ≤ s.latched.rxLen.toNat → Raised s c ∨ P c) : Raised s (need s k c) ∨ P (need s k c) := by
  rcases need_cases s k c with he | ⟨hk, he⟩ <;> rw [he]
  · exact .inl (raised_raise s _ _ _ rfl)
  · exact h hk

theorem rxLenGate_ends (s : State) (c : Completion) (P : Completion → Prop)
    (h : s.latched.rxLen.toNat ≤ s.params.bufSize - 2 → Raised s c ∨ P c) :
    Raised s (rxLenGate s c) ∨ (s.latched.rxLen.toNat ≤ s.params.bufSize - 2 ∧ P (rxLenGate s c)) := by
  rcases rxLenGate_cases s c with he | ⟨hk, he⟩ <;> rw [he]
  · exact .inl (raised_raise s _ _ _ rfl)
  · exact (h hk).imp_right fun hp => ⟨hk, hp⟩

theorem arpReply_ends (s : State) (h : 42 ≤ s.latched.rxLen.toNat) :
    Raised s (arpReply s) ∨ Succeeded s (arpReply s) := by
  unfold arpReply
  split
  · exact .inl (raised_raise s _ _ _ rfl)
  · rename_i hv
    exact .inr (.inl ⟨h, by simpa using hv, rfl⟩)

theorem arpRespond_ends (s : State) : Raised s (arpRespond s) ∨ Succeeded s (arpRespond s) := by
  refine need_ends s 42 _ _ fun h => ?_
  unfold arpValidate
  split
  · exact .inl (raised_raise s _ _ _ rfl)
  split
  · exact .inl (raised_raise s _ _ _ rfl)
  split
  · exact .inl (raised_raise s _ _ _ rfl)
  split
  · exact .inl (raised_raise s _ _ _ rfl)
  split
  · exact .inl (raised_raise s _ _ _ rfl)
  · exact arpReply_ends s h

theorem icmpEchoReply_ends (s : State) (h : 34 ≤ s.latched.rxLen.toNat) :
    Raised s (icmpEchoReply s) ∨ Succeeded s (icmpEchoReply s) := by
  simp only [icmpEchoReply]
  split
  · exact .inl (raised_raise s _ _ _ rfl)
  · rename_i hl
    refine need_ends s _ _ _ fun hk => ?_
    split
    · exact .inl (raised_raise s _ _ _ rfl)
    split
    · exact .inl (raised_raise s _ _ _ rfl)
    · rename_i hv
      exact .inr (.inr (.inl ⟨h, by omega, hk, by simpa using hv, rfl⟩))

theorem icmpRespond_ends (s : State) (h : 34 ≤ s.latched.rxLen.toNat) :
    Raised s (icmpRespond s) ∨ Succeeded s (icmpRespond s) := by
  refine need_ends s _ _ _ fun _ => ?_
  split
  · exact .inl (raised_raise s _ _ _ rfl)
  split
  · exact .inl (raised_raise s _ _ _ rfl)
  · exact icmpEchoReply_ends s h

theorem udpInspect_ends (s : State) : Raised s (udpInspect s) ∨ Succeeded s (udpInspect s) := by
  refine need_ends s _ _ _ fun _ => ?_
  split
  · exact .inl (raised_raise s _ _ _ rfl)
  · rename_i hl
    exact need_ends s _ _ _ fun hk => .inr (.inr (.inr ⟨by omega, hk, rfl⟩))

theorem ipv4Dispatch_ends (s : State) : Raised s (ipv4Dispatch s) ∨ Succeeded s (ipv4Dispatch s) := by
  refine need_ends s _ _ _ fun h => need_ends s _ _ _ fun _ => ?_
  split
  · exact .inl (raised_raise s _ _ _ rfl)
  unfold protoRoute
  split
  · exact icmpRespond_ends s h
  split
  · exact udpInspect_ends s
  · exact .inl (raised_raise s _ _ _ rfl)

theorem ethDispatch_ends (s : State) : Raised s (ethDispatch s) ∨ Succeeded s (ethDispatch s) := by
  refine need_ends s _ _ _ fun _ => ?_
  split
  · exact ipv4Dispatch_ends s
  split
  · exact arpRespond_ends s
  · exact .inl (raised_raise s _ _ _ rfl)

/-- How a row of PROCESS ends. -/
def ProcessEnd (s : State) (c : Completion) : Prop :=
  Raised s c ∨ (s.latched.rxLen.toNat ≤ s.params.bufSize - 2 ∧ Succeeded s c)

theorem processCommand_ends (s : State) : ProcessEnd s (processCommand s) :=
  rxLenGate_ends s _ _ fun _ => ethDispatch_ends s

theorem ethEntry_ends (s : State) (c : Completion) (h : Raised s c ∨ Succeeded s c) :
    ProcessEnd s (ethEntry s c) :=
  rxLenGate_ends s _ _ fun _ => need_ends s _ _ _ fun _ => h

theorem ipv4Entry_ends (s : State) (c : Completion)
    (h : 34 ≤ s.latched.rxLen.toNat → Raised s c ∨ Succeeded s c) :
    ProcessEnd s (ipv4Entry s c) :=
  ethEntry_ends s _ (need_ends s _ _ _ fun hk => need_ends s _ _ _ fun _ => h hk)

/-- How CSUM ends (40_checksum.md R149). -/
theorem csumCommand_ends (s : State) : Raised s (csumCommand s) ∨
    (s.latched.csumOff.toNat + 2 * s.latched.csumN.toNat ≤ s.params.bufSize ∧
      csumCommand s = { finish s.buf .okCsum 0#32 0#32 with
        csum := some (checksum s.buf s.latched.csumOff.toNat s.latched.csumN.toNat) }) := by
  simp only [csumCommand]
  split
  · exact .inl (raised_raise s _ _ _ rfl)
  · exact .inr ⟨by omega, rfl⟩

/-- How CSUM_CONSTRUCT ends (40_checksum.md R150). -/
theorem csumConstructCommand_ends (s : State) : Raised s (csumConstructCommand s) ∨
    (s.latched.csumOff.toNat + 2 * s.latched.csumN.toNat ≤ s.params.bufSize ∧
      s.latched.csumField.toNat + 2 ≤ s.params.bufSize ∧
      csumConstructCommand s =
        { finish (construct s.buf s.latched.csumOff.toNat s.latched.csumN.toNat s.latched.csumField.toNat)
            .okCsumConstruct 0#32 0#32 with
          csum := some (checksum (s.buf.setBE16 s.latched.csumField.toNat 0#16) s.latched.csumOff.toNat
            s.latched.csumN.toNat) }) := by
  simp only [csumConstructCommand]
  split
  · exact .inl (raised_raise s _ _ _ rfl)
  split
  · exact .inl (raised_raise s _ _ _ rfl)
  · exact .inr ⟨by omega, by omega, rfl⟩

/-- Every instruction completes: what `exec` answers, and how the command ended. -/
theorem exec_ends (i : Instr) (s : State) : ∃ c, exec i s = .next (complete s c) ∧
    (ProcessEnd s c ∨ c = csumCommand s ∨ c = csumConstructCommand s) := by
  cases i with
  | process => exact ⟨_, rfl, .inl (processCommand_ends s)⟩
  | csum => exact ⟨_, rfl, .inr (.inl rfl)⟩
  | csumConstruct => exact ⟨_, rfl, .inr (.inr rfl)⟩
  | badcmd value => exact ⟨_, rfl, .inl (.inl (raised_raise s _ _ _ rfl))⟩
  | ethIpv4 => exact ⟨_, rfl, .inl (ethEntry_ends s _ (ipv4Dispatch_ends s))⟩
  | ethArp => exact ⟨_, rfl, .inl (ethEntry_ends s _ (arpRespond_ends s))⟩
  | arpRequest => exact ⟨_, rfl, .inl (ethEntry_ends s _ (need_ends s _ _ _ (arpReply_ends s)))⟩
  | ipv4Icmp => exact ⟨_, rfl, .inl (ipv4Entry_ends s _ (icmpRespond_ends s))⟩
  | ipv4Udp => exact ⟨_, rfl, .inl (ipv4Entry_ends s _ fun _ => udpInspect_ends s)⟩
  | icmpEchoRequest =>
    exact ⟨_, rfl, .inl (ipv4Entry_ends s _ fun h => need_ends s _ _ _ fun _ => icmpEchoReply_ends s h)⟩

/-! ### One step -/

/-- What the engine's turn can do. -/
theorem engineTurn_cases (s : State) : engineTurn s = .next s ∨
    (s.inReset = false ∧ s.fsm = .busy ∧ engineTurn s = exec (decodeCommand s.latched.cmd) s) := by
  unfold engineTurn
  split
  · exact .inl rfl
  · rename_i h
    split
    · exact .inl rfl
    · rename_i hf
      exact .inr ⟨by simpa using h, hf, rfl⟩

theorem busAccess_inside (s : State) (off : Nat) (access : Nat → State) (h : off < windowSize) :
    busAccess s (s.params.blockBase + off) access = access off := by
  have hw : windowOffset s.params (s.params.blockBase + off) = some off := by
    unfold windowOffset
    rw [if_pos ⟨by omega, by omega⟩]
    congr 1
    omega
  simp [busAccess, hw]

theorem busAccess_outside (s : State) (addr : Nat) (access : Nat → State)
    (h : addr < s.params.blockBase ∨ s.params.blockBase + windowSize ≤ addr) :
    busAccess s addr access = { s with reply := .elsewhere } := by
  have hw : windowOffset s.params addr = none := by
    unfold windowOffset
    rw [if_neg (by omega)]
  simp [busAccess, hw]

/-- What a bus access can do: nothing to PDRE, or an access at a window offset. -/
theorem busAccess_cases (s : State) (addr : Nat) (access : Nat → State) :
    busAccess s addr access = { s with reply := .elsewhere } ∨
    ∃ off, off < windowSize ∧ addr = s.params.blockBase + off ∧ busAccess s addr access = access off := by
  by_cases h : addr < s.params.blockBase ∨ s.params.blockBase + windowSize ≤ addr
  · exact .inl (busAccess_outside s addr access h)
  · refine .inr ⟨addr - s.params.blockBase, by omega, by omega, ?_⟩
    have := busAccess_inside s (addr - s.params.blockBase) access (by omega)
    rwa [show s.params.blockBase + (addr - s.params.blockBase) = addr by omega] at this

/-- What the reset signal can do. -/
theorem driveReset_cases (s : State) (level : Bool) :
    (assertsReset s.params.resetKind level = true ∧ driveReset s level = assertReset s) ∨
    (assertsReset s.params.resetKind level = false ∧ driveReset s level = deassertReset s) := by
  unfold driveReset
  cases assertsReset s.params.resetKind level <;> simp

/-- Everything one event can do. -/
theorem runEvent_cases (u t : State) (e : Event) (h : runEvent u e = .next t) :
    (e = .engine ∧ engineTurn u = .next t) ∨
    (∃ level, e = .resetLine level ∧ (assertsReset u.params.resetKind level = true ∧ t = assertReset u ∨
      assertsReset u.params.resetKind level = false ∧ t = deassertReset u)) ∨
    (((∃ size addr v, e = .write size addr v) ∨ ∃ size addr, e = .read size addr) ∧
      t = { u with reply := .elsewhere }) ∨
    (∃ size off v, off < windowSize ∧ e = .write size (u.params.blockBase + off) v ∧ t = hostWrite u size off v) ∨
    (∃ size off, off < windowSize ∧ e = .read size (u.params.blockBase + off) ∧ t = hostRead u size off) := by
  cases e with
  | engine => exact .inl ⟨rfl, h⟩
  | resetLine level =>
    refine .inr (.inl ⟨level, rfl, ?_⟩)
    have ht := Host.Outcome.next.inj h
    rcases driveReset_cases u level with ⟨ha, he⟩ | ⟨ha, he⟩ <;> rw [he] at ht
    · exact .inl ⟨ha, ht.symm⟩
    · exact .inr ⟨ha, ht.symm⟩
  | write size addr v =>
    have ht := Host.Outcome.next.inj h
    rcases busAccess_cases u addr (fun off => hostWrite u size off v) with he | ⟨off, ho, ha, he⟩ <;> rw [he] at ht
    · exact .inr (.inr (.inl ⟨.inl ⟨size, addr, v, rfl⟩, ht.symm⟩))
    · exact .inr (.inr (.inr (.inl ⟨size, off, v, ho, by rw [ha], ht.symm⟩)))
  | read size addr =>
    have ht := Host.Outcome.next.inj h
    rcases busAccess_cases u addr (fun off => hostRead u size off) with he | ⟨off, ho, ha, he⟩ <;> rw [he] at ht
    · exact .inr (.inr (.inl ⟨.inr ⟨size, addr, rfl⟩, ht.symm⟩))
    · exact .inr (.inr (.inr (.inr ⟨size, off, ho, by rw [ha], ht.symm⟩)))

theorem step_nil (s : State) (h : s.schedule = []) : step s = engineTurn s := by
  unfold step
  rw [h]

theorem step_cons (s : State) (e : Event) (rest : List Event) (h : s.schedule = e :: rest) :
    step s = runEvent (s.withSchedule rest) e := by
  unfold step
  rw [h]

/-- Everything one step can do; `u` is the state without the event it takes. -/
theorem step_cases (s t : State) (h : step s = .next t) :
    (s.schedule = [] ∧ engineTurn s = .next t) ∨
    ∃ e rest, s.schedule = e :: rest ∧ runEvent (s.withSchedule rest) e = .next t := by
  cases hs : s.schedule with
  | nil => exact .inl ⟨rfl, by rwa [step_nil s hs] at h⟩
  | cons e rest => exact .inr ⟨e, rest, rfl, by rwa [step_cons s e rest hs] at h⟩

end Sys2Proof.Machine
end

