-- ==== Sys2Proof/Laws/Bus.lean ====
section
/-! SUPPORT. What a host access and a reset can do, said once. -/

namespace Sys2Proof.Machine

/-! ### The register map and the allowed accesses -/

/-- The allowed accesses as arithmetic (20_memory.md R83). -/
theorem accessWf_iff (size off : Nat) : accessWf size off = true ↔
    off < bufferBase ∧ size = 4 ∧ off % 4 = 0 ∨
    bufferBase ≤ off ∧ (size = 1 ∨ size = 2 ∨ size = 4) ∧ off % size = 0 := by
  unfold accessWf
  by_cases h : off < bufferBase
  · rw [if_pos h]
    simp only [Bool.and_eq_true, decide_eq_true_eq]
    constructor
    · exact fun h' => .inl ⟨h, h'⟩
    · rintro (h' | h')
      · exact h'.2
      · exact absurd h (Nat.not_lt.mpr h'.1)
  · rw [if_neg h]
    simp only [Bool.and_eq_true, Bool.or_eq_true, decide_eq_true_eq]
    constructor
    · exact fun h' => .inr ⟨Nat.not_lt.mp h, by rcases h'.1 with (h1 | h1) | h1 <;> simp [h1], h'.2⟩
    · rintro (h' | h')
      · exact absurd h'.1 h
      · exact ⟨by rcases h'.2.1 with h1 | h1 | h1 <;> simp [h1], h'.2.2⟩

@[simp] theorem regAt_offset (r : Reg) : regAt r.offset = some r := by cases r <;> rfl

/-- A register found at an offset has that offset. -/
theorem offset_of_regAt (off : Nat) (r : Reg) (h : regAt off = some r) : r.offset = off := by
  have := List.find?_some h
  exact of_decide_eq_true this

/-- Only window offset 0 is CMD. -/
theorem regAt_eq_cmd (off : Nat) : regAt off = some .cmd ↔ off = 0 :=
  ⟨fun h => (offset_of_regAt off .cmd h).symm, fun h => by subst h; rfl⟩

/-! ### Register writes -/

/-- A write to a register other than CMD changes nothing but the host-written operand registers, and sets the LMAC
flags or leaves them (10_state.md R33, R44, R54). -/
structure OperandsWritten (s t : State) : Prop where
  params : t.params = s.params
  buf : t.buf = s.buf
  fsm : t.fsm = s.fsm
  latched : t.latched = s.latched
  lmacHiSet : s.lmacHiSet = true → t.lmacHiSet = true
  lmacLoSet : s.lmacLoSet = true → t.lmacLoSet = true
  done : t.done = s.done
  txReq : t.txReq = s.txReq
  ovr : t.ovr = s.ovr
  err : t.err = s.err
  result : t.result = s.result
  txLen : t.txLen = s.txLen
  csumResult : t.csumResult = s.csumResult
  errInfo : t.errInfo = s.errInfo
  errAux : t.errAux = s.errAux
  inspect : t.inspect = s.inspect
  inReset : t.inReset = s.inReset
  hazardFault : t.hazardFault = s.hazardFault
  schedule : t.schedule = s.schedule
  reply : t.reply = s.reply
  draws : t.draws = s.draws

theorem regWrite_operands (s : State) (v : Word) (r : Reg) (h : r ≠ .cmd) :
    OperandsWritten s (regWrite s v r) := by
  cases r <;> first | exact absurd rfl h | (constructor <;> simp [regWrite])

/-! ### One access -/

/-- Everything a host write can do. -/
theorem hostWrite_cases (s : State) (size off : Nat) (v : Word) :
    ((s.inReset = true ∨ accessWf size off = false ∨
        s.fsm = .busy ∧ bufferBase ≤ off ∧ off - bufferBase < s.params.bufSize) ∧
      hostWrite s size off v = refuseAccess s) ∨
    (s.inReset = false ∧ accessWf size off = true ∧
      (off = 0 ∧ hostWrite s size off v = { cmdWrite s v with reply := .written } ∨
       (∃ r, r ≠ .cmd ∧ regAt off = some r ∧ hostWrite s size off v = { regWrite s v r with reply := .written }) ∨
       ((off < bufferBase ∧ regAt off = none ∨ bufferBase + s.params.bufSize ≤ off) ∧
        hostWrite s size off v = { s with reply := .written }) ∨
       (s.fsm = .idle ∧ bufferBase ≤ off ∧ off - bufferBase < s.params.bufSize ∧
        hostWrite s size off v =
          { s with buf := s.buf.setBytes (off - bufferBase) (laneBytes v size), reply := .written }))) := by
  unfold hostWrite
  by_cases h : (s.inReset || !accessWf size off) = true
  · rw [if_pos h]
    refine .inl ⟨?_, rfl⟩
    simp only [Bool.or_eq_true, Bool.not_eq_true'] at h
    exact h.imp_right .inl
  · rw [if_neg h]
    simp only [Bool.or_eq_true, Bool.not_eq_true', not_or, Bool.not_eq_true, Bool.not_eq_false] at h
    by_cases hb : off < bufferBase
    · rw [if_pos hb]
      refine .inr ⟨h.1, h.2, ?_⟩
      unfold regSpaceWrite
      split
      · rename_i r hr
        by_cases hc : r = .cmd
        · subst hc
          exact .inl ⟨(regAt_eq_cmd off).mp hr, rfl⟩
        · exact .inr (.inl ⟨r, hc, hr, rfl⟩)
      · rename_i hr
        exact .inr (.inr (.inl ⟨.inl ⟨hb, hr⟩, rfl⟩))
    · rw [if_neg hb]
      unfold bufSpaceWrite
      split
      · exact .inr ⟨h.1, h.2, .inr (.inr (.inl ⟨.inr (by omega), rfl⟩))⟩
      · split
        · rename_i hf
          exact .inl ⟨.inr (.inr ⟨hf, by omega, by omega⟩), rfl⟩
        · rename_i hf
          exact .inr ⟨h.1, h.2, .inr (.inr (.inr ⟨hf, by omega, by omega, rfl⟩))⟩

/-- Everything a host read can do: an answer on the bus, or a refusal. -/
theorem hostRead_cases (s : State) (size off : Nat) :
    ((s.inReset = true ∨ accessWf size off = false) ∧ hostRead s size off = refuseAccess s) ∨
    (s.inReset = false ∧ accessWf size off = true ∧
      ∃ (w : Word) (n : Nat), hostRead s size off = { s with reply := .data w, draws := n }) := by
  unfold hostRead
  by_cases h : (s.inReset || !accessWf size off) = true
  · rw [if_pos h]
    refine .inl ⟨?_, rfl⟩
    simpa using h
  · rw [if_neg h]
    refine .inr ?_
    simp only [Bool.or_eq_true, Bool.not_eq_true', not_or, Bool.not_eq_true, Bool.not_eq_false] at h
    refine ⟨h.1, h.2, ?_⟩
    split
    · unfold regSpaceRead
      split
      · exact ⟨_, _, rfl⟩
      · exact ⟨_, s.draws, rfl⟩
    · unfold bufSpaceRead
      split
      · exact ⟨_, s.draws, rfl⟩
      · split
        · exact ⟨_, _, rfl⟩
        · exact ⟨_, s.draws, rfl⟩

/-! ### An access to a register, by its name -/

theorem offset_lt_bufferBase (r : Reg) : r.offset < bufferBase := by cases r <;> decide

theorem accessWf_offset (r : Reg) : accessWf 4 r.offset = true := by cases r <;> decide

/-- A host read of a register answers `regRead` (10_state.md R33). -/
theorem hostRead_register (s : State) (r : Reg) (h : s.inReset = false) : hostRead s 4 r.offset =
    { s with reply := .data (regRead s r).1, draws := s.draws + (regRead s r).2 } := by
  unfold hostRead
  rw [if_neg (by simp [h, accessWf_offset]), if_pos (offset_lt_bufferBase r)]
  simp only [regSpaceRead, regAt_offset]

/-- A host write to a register is `regWrite` (10_state.md R33). -/
theorem hostWrite_register (s : State) (r : Reg) (v : Word) (h : s.inReset = false) : hostWrite s 4 r.offset v =
    { regWrite s v r with reply := .written } := by
  unfold hostWrite
  rw [if_neg (by simp [h, accessWf_offset]), if_pos (offset_lt_bufferBase r)]
  simp only [regSpaceWrite, regAt_offset]

/-- A host read at a buffer-space offset is `bufSpaceRead` (20_memory.md R80). -/
theorem hostRead_buffer (s : State) (size i : Nat) (h : s.inReset = false)
    (ha : accessWf size (bufferBase + i) = true) : hostRead s size (bufferBase + i) = bufSpaceRead s size i := by
  unfold hostRead
  rw [if_neg (by simp [h, ha]), if_neg (by omega), Nat.add_sub_cancel_left]

/-- A host write at a buffer-space offset is `bufSpaceWrite` (20_memory.md R80). -/
theorem hostWrite_buffer (s : State) (size i : Nat) (v : Word) (h : s.inReset = false)
    (ha : accessWf size (bufferBase + i) = true) : hostWrite s size (bufferBase + i) v = bufSpaceWrite s size i v := by
  unfold hostWrite
  rw [if_neg (by simp [h, ha]), if_neg (by omega), Nat.add_sub_cancel_left]

/-! ### Memory keeps its canonical form -/

theorem wf_hostWrite (s : State) (size off : Nat) (v : Word) (h : s.buf.wf = true) :
    (hostWrite s size off v).buf.wf = true := by
  rcases hostWrite_cases s size off v with ⟨_, he⟩ | ⟨_, _, ⟨_, he⟩ | ⟨r, hr, _, he⟩ | ⟨_, he⟩ | ⟨_, _, _, he⟩⟩ <;>
    rw [he]
  · exact h
  · show (cmdWrite s v).buf.wf = true
    unfold cmdWrite
    split <;> exact h
  · show (regWrite s v r).buf.wf = true
    rw [(regWrite_operands s v r hr).buf]
    exact h
  · exact h
  · exact wf_setBytes _ _ _ h

/-- A naturally aligned access that starts in the buffer ends in it: BUF_SIZE is a multiple of 8 (20_memory.md
R85). -/
theorem access_in_buffer (p : Params) (size off : Nat) (hp : p.wf = true) (ha : accessWf size off = true)
    (hb : bufferBase ≤ off) (hl : off - bufferBase < p.bufSize) : off - bufferBase + size ≤ p.bufSize := by
  simp only [Params.wf, Bool.and_eq_true, decide_eq_true_eq] at hp
  rcases (accessWf_iff size off).mp ha with h | ⟨_, hs, hm⟩
  · omega
  · simp only [bufferBase] at *
    rcases hs with rfl | rfl | rfl <;> omega

theorem within_hostWrite (s : State) (size off : Nat) (v : Word) (hp : s.params.wf = true)
    (h : s.buf.within s.params.bufSize = true) :
    (hostWrite s size off v).buf.within s.params.bufSize = true := by
  rcases hostWrite_cases s size off v with
    ⟨_, he⟩ | ⟨_, ha, ⟨_, he⟩ | ⟨r, hr, _, he⟩ | ⟨_, he⟩ | ⟨_, hb, hl, he⟩⟩ <;> rw [he]
  · exact h
  · show (cmdWrite s v).buf.within _ = true
    unfold cmdWrite
    split <;> exact h
  · show (regWrite s v r).buf.within _ = true
    rw [(regWrite_operands s v r hr).buf]
    exact h
  · exact h
  · refine within_setBytes _ _ _ _ ?_ h
    rw [laneBytes_length]
    exact access_in_buffer s.params size off hp ha hb hl

end Sys2Proof.Machine
end

