-- ==== Sys2Proof/Laws/PerInstr.lean ====
section
/-! SUPPORT. Statements about every instruction as syntax, one lemma per constructor. -/

namespace Sys2Proof.Laws

/-- An instruction's encoding fills its site exactly (30_encoding.md R103, R115 to R118). -/
def EncodingFillsSite.Statement (i : Instr) : Prop := (encode i).length = i.site.bytes

theorem EncodingFillsSite.process : EncodingFillsSite.Statement .process := rfl
theorem EncodingFillsSite.csum : EncodingFillsSite.Statement .csum := rfl
theorem EncodingFillsSite.csumConstruct : EncodingFillsSite.Statement .csumConstruct := rfl
theorem EncodingFillsSite.badcmd (value : Word) : EncodingFillsSite.Statement (.badcmd value) := rfl
theorem EncodingFillsSite.ethIpv4 : EncodingFillsSite.Statement .ethIpv4 := rfl
theorem EncodingFillsSite.ethArp : EncodingFillsSite.Statement .ethArp := rfl
theorem EncodingFillsSite.arpRequest : EncodingFillsSite.Statement .arpRequest := rfl
theorem EncodingFillsSite.ipv4Icmp : EncodingFillsSite.Statement .ipv4Icmp := rfl
theorem EncodingFillsSite.ipv4Udp : EncodingFillsSite.Statement .ipv4Udp := rfl
theorem EncodingFillsSite.icmpEchoRequest : EncodingFillsSite.Statement .icmpEchoRequest := rfl

end Sys2Proof.Laws
end

