-- ==== Sys2Proof/Laws/Run.lean ====
section
/-! SUPPORT. Runs of several steps, one step at a time. -/

namespace Sys2Proof.Machine

theorem engineTurn_busy (s : State) (hr : s.inReset = false) (hf : s.fsm = .busy) :
    engineTurn s = exec (decodeCommand s.latched.cmd) s := by
  unfold engineTurn
  rw [hr, hf]
  rfl

theorem engineTurn_rest (s : State) (h : s.fsm = .idle ∨ s.inReset = true) : engineTurn s = .next s := by
  unfold engineTurn
  split
  · rfl
  · rename_i hr
    split
    · rfl
    · rename_i hf
      rcases h with h | h
      · rw [h] at hf
        cases hf
      · exact absurd h hr

theorem run_zero (s : State) : Sys2Proof.core.run 0 s = .next s := rfl

theorem run_succ (M : Host.Core) (s t : M.State) (k : Nat) (h : M.step s = .next t) : M.run (k + 1) s = M.run k t := by
  simp only [Host.Core.run, h]

/-- A run goes on from the state that its first step answers. -/
theorem run_succ_of_step (s t : State) (k : Nat) (h : step s = .next t) :
    Sys2Proof.core.run (k + 1) s = Sys2Proof.core.run k t := run_succ Sys2Proof.core s t k h

end Sys2Proof.Machine
end

