-- ==== Sys2Proof/Machine/HostNotation.lean ====
section
/-! DEFINITION. The bus transactions of the host notation (30_encoding.md R121, R122), as events of the schedule.
The host-local forms (labels, branches, temporaries) act on no PDRE state (log entry 19). -/

namespace Sys2Proof.Machine

/-- `W32 off, v` (30_encoding.md R121). -/
def hostW32 (p : Params) (off : Nat) (v : Word) : Event := .write 4 (p.blockBase + off) v
@[inherit_doc hostW32] def hostW16 (p : Params) (off : Nat) (v : Word) : Event := .write 2 (p.blockBase + off) v
@[inherit_doc hostW32] def hostW8 (p : Params) (off : Nat) (v : Word) : Event := .write 1 (p.blockBase + off) v

/-- `R32 off -> t` (30_encoding.md R121); the value is `State.reply`. -/
def hostR32 (p : Params) (off : Nat) : Event := .read 4 (p.blockBase + off)
@[inherit_doc hostR32] def hostR16 (p : Params) (off : Nat) : Event := .read 2 (p.blockBase + off)
@[inherit_doc hostR32] def hostR8 (p : Params) (off : Nat) : Event := .read 1 (p.blockBase + off)

/-- `CMD v` (30_encoding.md R122). -/
def hostCmd (p : Params) (v : Word) : List Event := [hostW32 p 0x000 v]

/-- `POLL` (30_encoding.md R122) where the command completes after `k` reads of STATUS: those read BUSY = 1 and the
last one reads BUSY = 0. -/
def hostPoll (p : Params) (k : Nat) : List Event :=
  List.replicate k (hostR32 p 0x004) ++ [.engine, hostR32 p 0x004]

/-- `RUN v` (30_encoding.md R122). -/
def hostRun (p : Params) (v : Word) (k : Nat) : List Event := hostCmd p v ++ hostPoll p k

/-- `WBUF i, b0 b1 ...` with `i mod 4 = 0`; missing bytes of the last word are 0x00 (30_encoding.md R122). -/
def hostWbuf (p : Params) (i : Nat) : List Byte → List Event
  | [] => []
  | [b0] => [hostW32 p (0x10000 + i) (0#8 ++ 0#8 ++ 0#8 ++ b0)]
  | [b0, b1] => [hostW32 p (0x10000 + i) (0#8 ++ 0#8 ++ b1 ++ b0)]
  | [b0, b1, b2] => [hostW32 p (0x10000 + i) (0#8 ++ b2 ++ b1 ++ b0)]
  | b0 :: b1 :: b2 :: b3 :: rest => hostW32 p (0x10000 + i) (b3 ++ b2 ++ b1 ++ b0) :: hostWbuf p (i + 4) rest

/-- `SETMAC hi, lo` (30_encoding.md R122). -/
def hostSetMac (p : Params) (hi lo : Word) : List Event := [hostW32 p 0x010 hi, hostW32 p 0x014 lo]

/-- `SEND n`: the transport reads `buf[0 .. n]` a byte at a time (30_encoding.md R121; 10_state.md R59). -/
def hostSend (p : Params) (n : Nat) : List Event := (List.range n).map fun i => hostR8 p (0x10000 + i)

end Sys2Proof.Machine
end

