-- ==== Sys2Proof/Tests/Slice0.lean ====
section
/-! SUPPORT. The model's own tests. "V-..." names a vector of spec/95_test_vectors.md, whose end state is the expected
result. A `witness_X` shows states and operands that meet the hypotheses of `Obligations.X`, clause by clause. -/

namespace Sys2Proof.Tests

set_option Elab.async false

open Sys2Proof Sys2Proof.Machine Sys2Proof.Claims

/-! ### Small states -/

/-- The cells of a byte list from offset `a`. -/
def cellsFrom : Nat → List Byte → List Host.Cell
  | _, [] => []
  | a, b :: rest => (a, b) :: cellsFrom (a + 1) rest

/-- A buffer that holds the `n` bytes of a frame listing from offset `a`. -/
def bufferAt (a n hex : Nat) : Memory := { cells := cellsFrom a (bigBytes n hex), epoch := 0 }

/-- S0 of 95_test_vectors.md with this buffer and received length: the local MAC is BB:BB:BB:BB:BB:BB. -/
def hostState (len : Nat) (m : Memory) : State :=
  { State.reset with
    buf := m, rxLen := BitVec.ofNat 16 len, lmacHi := 0xBBBB#16, lmacLo := 0xBBBBBBBB#32, lmacHiSet := true
    lmacLoSet := true }

/-- PROCESS accepted on that state. -/
def processing (len : Nat) (m : Memory) : State := accept (hostState len m) 1#32

/-- The same where the host has not written LMAC_LO. -/
def processingNoMac (len : Nat) (m : Memory) : State := accept { hostState len m with lmacLoSet := false } 1#32

/-- A checksum command accepted with these operands. -/
def checksumming (cmd : Word) (a n f : Nat) (m : Memory) : State :=
  accept
    { hostState 0 m with csumOff := BitVec.ofNat 16 a, csumNwords := BitVec.ofNat 16 n, csumField := BitVec.ofNat 16 f } cmd

/-- The smallest buffer, a base that is not 0, and a reset signal that asserts when low. -/
def smallParams : Params :=
  { bufSize := 48, blockBase := 0x20000, resetKind := { polarity := .activeLow, synchronous := false } }

/-- The state that `exec` answers, if it answers one. -/
def after (i : Instr) (s : State) : Option State :=
  match exec i s with
  | .next t => some t
  | .fault _ => none
  | .refused _ => none

/-- What the host reads first after a run, with a part of the buffer. -/
def report (i : Instr) (s : State) (a n : Nat) : Option (Word × Word × Word × BitVec 17 × List Byte) :=
  (after i s).map fun t => (statusWord t, t.errInfo, t.errAux, t.txLen, t.buf.bytes a n)

/-- The frame of V-L1-1 as received, 42 wire bytes of it. -/
def arpFrame : Memory := bufferAt 0 44
  0x0000ffffffffffffaaaaaaaaaaaa08060001080006040001aaaaaaaaaaaa0a0000020000000000000a000001

/-- The frame of V-L1-2, 50 wire bytes. -/
def icmpFrame : Memory := bufferAt 0 52
  0x0000bbbbbbbbbbbbaaaaaaaaaaaa08004500002412344000400114a30a0000020a0000010800f7fd000100010000000000000000

/-- The frame of V-41-7, 84 wire bytes. -/
def udpFrame : Memory := bufferAt 0 86
  0x0000bbbbbbbbbbbbaaaaaaaaaaaa08004500004600000000401166a50a0000020a000001303904d2003200001f900123456789abcdef00000000000011110000000000002222deadbeef00000001cafef00d00000002

/-- An echo request with IHL 3, both checksums valid (42_reply.md R225), 38 wire bytes. -/
def icmpFrameIhl3 : Memory := bufferAt 0 40
  0x0000bbbbbbbbbbbbaaaaaaaaaaaa0800430000180000000040017ce60800e1e5000100010a0b0c0d

/-- An echo request with IHL 15, both checksums valid, 82 wire bytes. -/
def icmpFrameIhl15 : Memory := bufferAt 0 84
  0x0000bbbbbbbbbbbbaaaaaaaaaaaa08004f00004400000000400148a30a0000020a000001010101010101010101010101010101010101010101010101010101010101010101010101010101010800f7fd00010001

/-! ### Well-formedness -/

theorem test_badcmd_of_a_command_is_ill_formed :
    Instr.wellFormed (.badcmd 1#32) = false ∧ Instr.wellFormed (.badcmd 2#32) = false ∧
    Instr.wellFormed (.badcmd 3#32) = false := by decide

theorem test_badcmd_of_another_word_is_well_formed :
    Instr.wellFormed (.badcmd 0#32) = true ∧ Instr.wellFormed (.badcmd 4#32) = true := by decide

/-! ### Decoding: words written out from 30_encoding.md R101 and R115 to R118 -/

theorem test_decode_process : decodeAt .command [0x01#8, 0x00#8, 0x00#8, 0x00#8] = .ok .process := by decide
theorem test_decode_csum : decodeAt .command [0x02#8, 0x00#8, 0x00#8, 0x00#8] = .ok .csum := by decide
theorem test_decode_csum_construct :
    decodeAt .command [0x03#8, 0x00#8, 0x00#8, 0x00#8] = .ok .csumConstruct := by decide
/-- V-60-2 and a word whose third byte alone is not zero: the whole word counts (30_encoding.md R100). -/
theorem test_decode_badcmd :
    decodeAt .command [0x11#8, 0x00#8, 0x00#8, 0x00#8] = .ok (.badcmd 0x00000011#32) ∧
    decodeAt .command [0x01#8, 0x00#8, 0x80#8, 0x00#8] = .ok (.badcmd 0x00800001#32) := by decide
theorem test_decode_eth_ipv4 : decodeAt .etherType [0x08#8, 0x00#8] = .ok .ethIpv4 := by decide
theorem test_decode_eth_arp : decodeAt .etherType [0x08#8, 0x06#8] = .ok .ethArp := by decide
theorem test_decode_arp_request :
    decodeAt .arpHeader [0x00#8, 0x01#8, 0x08#8, 0x00#8, 0x06#8, 0x04#8, 0x00#8, 0x01#8] = .ok .arpRequest := by
  decide
theorem test_decode_ipv4_icmp : decodeAt .ipProtocol [0x01#8] = .ok .ipv4Icmp := by decide
theorem test_decode_ipv4_udp : decodeAt .ipProtocol [0x11#8] = .ok .ipv4Udp := by decide
theorem test_decode_icmp_echo : decodeAt .icmpHeader [0x08#8, 0x00#8] = .ok .icmpEchoRequest := by decide
/-- V-L1-4, V-L1-5a, V-41-6 and V-L1-5f: bits that are no key are rejected by name. -/
theorem test_decode_rejects_by_name :
    decodeAt .etherType [0x86#8, 0xDD#8] = .error .unsupportedEtherType ∧
    decodeAt .arpHeader [0x00#8, 0x01#8, 0x08#8, 0x00#8, 0x06#8, 0x04#8, 0x00#8, 0x03#8] = .error .notArpRequest ∧
    decodeAt .ipProtocol [0x06#8] = .error .unsupportedProtocol ∧
    decodeAt .icmpHeader [0x0D#8, 0x00#8] = .error .notEchoRequest ∧
    decodeAt .command [0x01#8, 0x00#8] = .error .wrongLength := by decide

/-- The words of spec/opcode_table.json at their widths; two rows have the 16-bit word 0x0800 (log entry 12). -/
theorem test_decode_table_words :
    decodeTableWord 32 1 = some .process ∧ decodeTableWord 32 3 = some .csumConstruct ∧
    decodeTableWord 32 0x11 = some (.badcmd 0x11#32) ∧ decodeTableWord 16 0x0806 = some .ethArp ∧
    decodeTableWord 64 0x0001080006040001 = some .arpRequest ∧ decodeTableWord 8 17 = some .ipv4Udp ∧
    decodeTableWord 16 0x0800 = some .ethIpv4 := by decide

/-! ### The instructions -/

/-- V-L1-1: the ARP request is answered. -/
theorem test_process_arp : report .process (processing 60 arpFrame) 2 42 =
    some (0x00000106#32, 0#32, 0#32, 48#17, bigBytes 42
      0xaaaaaaaaaaaabbbbbbbbbbbb08060001080006040002bbbbbbbbbbbb0a000001aaaaaaaaaaaa0a000002) := by
  decide +kernel

/-- V-41-1: a frame one byte too long. -/
theorem test_process_too_long : report .process (processing 2047 arpFrame) 0 0 =
    some (0x00001012#32, 0x7FF#32, 0x7FE#32, 0#17, []) := by decide +kernel

/-- V-40-16: words at an odd offset. -/
theorem test_csum_odd_offset :
    (after .csum (checksumming 2#32 1 2 0 (bufferAt 1 4 0x12345678))).map (·.csumResult) = some 0x9753#16 := by
  decide +kernel

/-- V-40-17: the largest operands do not wrap. -/
theorem test_csum_range : report .csum (checksumming 2#32 0xFFFF 0xFFFF 0 arpFrame) 0 0 =
    some (0x00006112#32, 0xFFFF#32, 0xFFFF#32, 0#17, []) := by decide +kernel

/-- V-40-21: the field at an odd distance from the start. -/
theorem test_construct_odd_field : report .csumConstruct (checksumming 3#32 0 2 1 (bufferAt 0 4 0x12777734)) 0 4 =
    some (0x00000502#32, 0#32, 0#32, 0#17, bigBytes 4 0x12EDCB34) := by decide +kernel

/-- V-40-19: a field one byte past the end. -/
theorem test_construct_field_range : report .csumConstruct (checksumming 3#32 0 1 2047 arpFrame) 0 0 =
    some (0x00006212#32, 0x7FF#32, 0#32, 0#17, []) := by decide +kernel

/-- V-60-3. -/
theorem test_badcmd : report (decodeCommand 0xFFFFFFFF#32) (processing 60 arpFrame) 0 44 =
    some (0x00006012#32, 0xFFFFFFFF#32, 0#32, 0#17, arpFrame.bytes 0 44) := by decide +kernel

/-- V-L1-6: the gate comes before the UDP stage. -/
theorem test_eth_ipv4_gate : report .ethIpv4 (processing 84 (udpFrame.setBytes 26 [0x67#8])) 0 0 =
    some (0x00003012#32, 0x67A5#32, 0xFEFF#32, 0#17, []) := by decide +kernel

/-- V-41-6: protocol 6. -/
theorem test_eth_ipv4_protocol :
    report .ethIpv4 (processing 60 (bufferAt 14 22 0x08004500002800004000400626ce0a0000020a000001)) 0 0 =
    some (0x00003112#32, 0x6#32, 0#32, 0#17, []) := by decide +kernel

/-- V-L1-5e: PLEN 16. -/
theorem test_eth_arp_plen : report .ethArp (processing 60 (arpFrame.setBytes 21 [0x10#8])) 0 0 =
    some (0x00002412#32, 0x10#32, 0#32, 0#17, []) := by decide +kernel

/-- V-L1-1 once its ARP key is read: the sender becomes the target. -/
theorem test_arp_request : report .arpRequest (processing 60 arpFrame) 24 20 =
    some (0x00000106#32, 0#32, 0#32, 48#17, bigBytes 20 0xbbbbbbbbbbbb0a000001aaaaaaaaaaaa0a000002) := by
  decide +kernel

/-- V-L1-2. -/
theorem test_ipv4_icmp : report .ipv4Icmp (processing 60 icmpFrame) 14 30 =
    some (0x00000206#32, 0#32, 0#32, 56#17, bigBytes 30
      0x08004500002412344000400114a30a0000010a0000020000fffd00010001) := by
  decide +kernel

/-- V-L1-5g: the code. -/
theorem test_ipv4_icmp_code : report .ipv4Icmp (processing 60 (icmpFrame.setBytes 37 [0x01#8])) 0 0 =
    some (0x00004112#32, 0x1#32, 0#32, 0#17, []) := by decide +kernel

/-- V-41-7. -/
theorem test_ipv4_udp : (after .ipv4Udp (processing 84 udpFrame)).map (·.inspect) =
    some { srcIp := 0x0A000002#32, dstIp := 0x0A000001#32, sport := 0x3039#16, dport := 0x04D2#16, ulen := 0x32#16
           rport := 0x1F90#16, magicLo := 0x89ABCDEF#32, magicHi := 0x01234567#32, asportLo := 0x1111#32
           asportHi := 0#32, adportLo := 0x2222#32, adportHi := 0#32, wcount := 2#16, payloadOff := 0x46#16 } := by
  decide +kernel

/-- A datagram one byte shorter than its UDP length says: E_TRUNC with 14 + 20 + 50 (41_dispatch.md R173). -/
theorem test_ipv4_udp_truncated : report .ipv4Udp (processing 83 udpFrame) 0 0 =
    some (0x00001112#32, 83#32, 84#32, 0#17, []) := by decide +kernel

/-- V-42-17: a stored checksum 0xFFFF validates, and the reply holds 0x0000. -/
theorem test_icmp_echo_ffff : report .icmpEchoRequest
    (processing 60 ((icmpFrame.setBytes 20 [0x26#8, 0xd7#8]).setBytes 26 [0xff#8, 0xff#8])) 26 2 =
    some (0x00000206#32, 0#32, 0#32, 56#17, [0x00#8, 0x00#8]) := by decide +kernel

/-- V-42-16: no local MAC. -/
theorem test_icmp_echo_no_mac : report .icmpEchoRequest (processingNoMac 60 icmpFrame) 0 0 =
    some (0x00001312#32, 0#32, 0#32, 0#17, []) := by decide +kernel

/-! ### The bus -/

/-- What one bus access at BLOCK_BASE 0 does to a state. -/
def access (s : State) (e : Event) : Option State :=
  match step (s.withSchedule [e]) with
  | .next t => some t
  | .fault _ => none
  | .refused _ => none

/-- V-70-2: byte lanes. -/
theorem test_bus_lanes :
    (access (hostState 0 arpFrame) (hostW32 Params.example2048 0x10000 0x44332211#32)).map (·.buf.bytes 0 4) =
      some [0x11#8, 0x22#8, 0x33#8, 0x44#8] ∧
    (access (hostState 0 icmpFrame) (hostR16 Params.example2048 0x1000E)).map (·.reply) =
      some (.data 0x0008#32) ∧
    (access (hostState 0 icmpFrame) (hostR32 Params.example2048 0x10010)).map (·.reply) =
      some (.data 0x24000045#32) := by decide +kernel

/-- V-70-3: refused and reserved accesses. -/
theorem test_bus_refusals :
    (access (hostState 0 arpFrame) (hostW16 Params.example2048 0x008 5#32)).map (fun t => (t.hazardFault, t.rxLen)) =
      some (true, 0#16) ∧
    (access (hostState 0 arpFrame) (hostR16 Params.example2048 0x10001)).map (·.hazardFault) = some true ∧
    (access (hostState 0 arpFrame) (hostR32 Params.example2048 0x06C)).map (fun t => (t.hazardFault, t.reply)) =
      some (false, .data 0#32) ∧
    (access (hostState 0 arpFrame) (hostR32 Params.example2048 0x11000)).map (fun t => (t.hazardFault, t.reply)) =
      some (false, .data 0#32) := by decide +kernel

/-- V-60-4: a second CMD write while BUSY sets OVR, and completion keeps it. -/
theorem test_bus_overrun :
    ((access (processing 60 arpFrame) (hostW32 Params.example2048 0x000 2#32)).bind fun t =>
      (access t .engine).map fun u => (statusWord t, statusWord u)) = some (0x00000009#32, 0x0000010E#32) := by
  decide +kernel

/-- V-70-4: a buffer write while BUSY is refused. -/
theorem test_bus_buffer_busy :
    (access (processing 60 arpFrame) (hostW32 Params.example2048 0x10010 0xFFFFFFFF#32)).map
      (fun t => (t.hazardFault, t.buf.bytes 16 4)) = some (true, [0x00#8, 0x01#8, 0x08#8, 0x00#8]) := by decide +kernel

/-- Past BUF_SIZE a read answers 0 and a write is ignored while BUSY too (20_memory.md R85; log entry 15). -/
theorem test_bus_past_buffer_busy :
    (access (processing 60 arpFrame) (hostR32 Params.example2048 0x10800)).map (fun t => (t.hazardFault, t.reply)) =
      some (false, .data 0#32) ∧
    (access (processing 60 arpFrame) (hostW32 Params.example2048 0x1FFFC 7#32)).map
      (fun t => (t.hazardFault, t.reply)) = some (false, .written) := by decide +kernel

/-- An access outside the window leaves a running command running (20_memory.md R80; log entry 10). -/
theorem test_bus_outside_window :
    (access (processing 60 arpFrame) (.write 4 0x20000 1#32)).map (fun t => (t.reply, t.fsm, t.ovr)) =
      some (.elsewhere, .busy, false) := by decide +kernel

/-- The level that asserts reset is RESET_KIND's (00_scope.md R11). -/
theorem test_reset_polarity :
    (access State.reset (.resetLine true)).map (·.inReset) = some true ∧
    (access { State.reset with params := smallParams } (.resetLine true)).map (·.inReset) = some false ∧
    (access { State.reset with params := smallParams } (.resetLine false)).map (·.inReset) = some true := by
  decide +kernel

/-- V-70-1: reset values as the host reads them. -/
theorem test_bus_reset_values :
    (access State.reset (hostR32 Params.example2048 0x004)).map (·.reply) = some (.data 0#32) ∧
    (access State.reset (hostR32 Params.example2048 0x068)).map (·.reply) = some (.data 0x800#32) := by decide +kernel

/-! ### Witnesses: the checksum -/

theorem witness_AccumulatorNeverOverflows : (0 : Nat) ≤ 65535 ∧ (65535 : Nat) ≤ 65535 := by decide

/-- Both clauses: a span that sums to 0 and one that does not, and the largest count. -/
theorem witness_ChecksumClosedForm :
    ((2 : Nat) ≤ 65535 ∧ wordSum (bufferAt 0 4 0) 0 2 = 0) ∧
    ((1 : Nat) ≤ 65535 ∧ 0 < wordSum (bufferAt 0 4 0x0001FFFE) 0 1) ∧ (65535 : Nat) ≤ 65535 := by decide +kernel

/-- The order-independence example of 95_test_vectors.md section 2.1. -/
theorem witness_ChecksumIgnoresWordOrder :
    (spanWords (bufferAt 0 8 0xC0A80001C0A800C7) 0 4).Perm (spanWords (bufferAt 2 8 0xC0A800C7C0A80001) 2 4) := by
  decide +kernel

/-- A span of one word that is its own field, and the last field of the longest span. -/
theorem witness_ConstructThenValidate :
    (∃ a n f : Nat, n = 1 ∧ 1 ≤ n ∧ n ≤ 65535 ∧ a ≤ f ∧ f + 2 ≤ a + 2 * n ∧ (f - a) % 2 = 0) ∧
    (∃ a n f : Nat, n = 65535 ∧ 1 ≤ n ∧ n ≤ 65535 ∧ a ≤ f ∧ f + 2 = a + 2 * n ∧ (f - a) % 2 = 0) :=
  ⟨⟨5, 1, 5, by decide⟩, ⟨1, 65535, 131069, by decide⟩⟩

/-- V-40-14 ends at BUF_SIZE, V-40-15 one word past it. -/
theorem witness_CsumEnds :
    (checksumming 2#32 2040 4 0 arpFrame).latched.csumOff.toNat +
      2 * (checksumming 2#32 2040 4 0 arpFrame).latched.csumN.toNat ≤
        (checksumming 2#32 2040 4 0 arpFrame).params.bufSize ∧
    ¬ (checksumming 2#32 2040 5 0 arpFrame).latched.csumOff.toNat +
      2 * (checksumming 2#32 2040 5 0 arpFrame).latched.csumN.toNat ≤
        (checksumming 2#32 2040 5 0 arpFrame).params.bufSize := by decide +kernel

/-- The three ends: V-40-20, V-40-19, and a field in the last two bytes. -/
theorem witness_CsumConstructEnds :
    (let s := checksumming 3#32 2048 1 4000 arpFrame
     s.params.bufSize < s.latched.csumOff.toNat + 2 * s.latched.csumN.toNat) ∧
    (let s := checksumming 3#32 0 1 2047 arpFrame
     ¬ s.params.bufSize < s.latched.csumOff.toNat + 2 * s.latched.csumN.toNat ∧
       s.params.bufSize < s.latched.csumField.toNat + 2) ∧
    (let s := checksumming 3#32 0 1024 2046 arpFrame
     ¬ s.params.bufSize < s.latched.csumOff.toNat + 2 * s.latched.csumN.toNat ∧
       ¬ s.params.bufSize < s.latched.csumField.toNat + 2) := by decide +kernel

/-! ### Witnesses: one step -/

/-- An empty schedule, and one with the engine next. -/
theorem witness_StepRunsDecodedCommand :
    (∃ (s : State) (i : Instr), s.inReset = false ∧ s.fsm = .busy ∧ s.schedule = [] ∧
      decodeAt .command (littleBytes 4 s.latched.cmd.toNat) = .ok i) ∧
    (∃ (s : State) (i : Instr), s.inReset = false ∧ s.fsm = .busy ∧ s.schedule = [.engine] ∧
      decodeAt .command (littleBytes 4 s.latched.cmd.toNat) = .ok i) :=
  ⟨⟨processing 60 arpFrame, .process, by decide +kernel⟩,
   ⟨(checksumming 2#32 16 10 0 arpFrame).withSchedule [.engine], .csum, by decide +kernel⟩⟩

/-- The last offset of the window, the addresses right before and after it, one level that asserts reset under one
RESET_KIND and deasserts it under another, and the engine with nothing to run. -/
theorem witness_StepTakesScheduledEvent :
    (∃ s : State, (0x1FFFF : Nat) < 0x20000 ∧ s.schedule = [.write 1 (s.params.blockBase + 0x1FFFF) 7#32]) ∧
    (∃ s : State, (0 : Nat) < 0x20000 ∧ s.schedule = [.read 4 (s.params.blockBase + 0)]) ∧
    (∃ s : State, (0x1FFFF : Nat) < s.params.blockBase ∧ s.schedule = [.write 4 0x1FFFF 7#32]) ∧
    (∃ s : State, s.params.blockBase + 0x20000 ≤ 0x40000 ∧ s.schedule = [.read 4 0x40000]) ∧
    (∃ s : State, s.schedule = [.resetLine true] ∧ assertsReset s.params.resetKind true = true) ∧
    (∃ s : State, s.schedule = [.resetLine true] ∧ assertsReset s.params.resetKind true = false) ∧
    (∃ s : State, s.schedule = [] ∧ s.fsm = .idle) ∧ (∃ s : State, s.schedule = [.engine] ∧ s.inReset = true) :=
  ⟨⟨State.reset.withSchedule [.write 1 0x1FFFF 7#32], by decide⟩,
   ⟨State.reset.withSchedule [.read 4 0], by decide⟩,
   ⟨(State.resetWith smallParams).withSchedule [.write 4 0x1FFFF 7#32], by decide⟩,
   ⟨(State.resetWith smallParams).withSchedule [.read 4 0x40000], by decide⟩,
   ⟨State.reset.withSchedule [.resetLine true], by decide⟩,
   ⟨(State.resetWith smallParams).withSchedule [.resetLine true], by decide⟩,
   ⟨State.reset, by decide⟩, ⟨(assertReset State.reset).withSchedule [.engine], by decide⟩⟩

/-- One frame for each kind of key. -/
theorem witness_FrameKeyRunsItsRow :
    decodeEtherType ((processing 60 icmpFrame).buf.be16 14) = .ok .ethIpv4 ∧
    decodeEtherType ((processing 60 arpFrame).buf.be16 14) = .ok .ethArp ∧
    decodeArpHeader ((processing 60 arpFrame).buf.be64 16) = .ok .arpRequest ∧
    (checksum (processing 84 udpFrame).buf 16 (2 * ihl (processing 84 udpFrame).buf) = 0#16 ∧
      decodeIpProtocol ((processing 84 udpFrame).buf.byte 25) = .ok .ipv4Udp) ∧
    decodeIcmpHeader ((processing 60 icmpFrame).buf.be16 (l4 (processing 60 icmpFrame).buf)) =
      .ok .icmpEchoRequest := by decide +kernel

/-! ### Witnesses: how PROCESS ends -/

theorem witness_OtherCommandWordsEndInBadcmd :
    ((0#32 : Word) ≠ 1#32 ∧ (0#32 : Word) ≠ 2#32 ∧ (0#32 : Word) ≠ 3#32) ∧
    ((4#32 : Word) ≠ 1#32 ∧ (4#32 : Word) ≠ 2#32 ∧ (4#32 : Word) ≠ 3#32) := by decide

/-- V-41-1, for PROCESS and one of its rows. -/
theorem witness_FrameTooLongEndsInRxlen :
    IsProcessRow .process ∧ IsProcessRow .icmpEchoRequest ∧ (processing 2047 arpFrame).params.wf = true ∧
    (processing 2047 arpFrame).params.bufSize - 2 < rx (processing 2047 arpFrame) := by
  simp only [IsProcessRow]
  decide +kernel

/-- 13 bytes, and 14 and 2046 bytes with each kind of EtherType. -/
theorem witness_EthernetDispatch :
    rx (processing 13 arpFrame) < 14 ∧
    (rx (processing 2046 arpFrame) ≤ (processing 2046 arpFrame).params.bufSize - 2 ∧
      14 ≤ rx (processing 2046 arpFrame) ∧ (processing 2046 arpFrame).buf.be16 14 = 0x0806#16) ∧
    (14 ≤ rx (processing 14 icmpFrame) ∧ (processing 14 icmpFrame).buf.be16 14 = 0x0800#16) ∧
    (14 ≤ rx (processing 14 (bufferAt 14 2 0x86DD)) ∧
      (processing 14 (bufferAt 14 2 0x86DD)).buf.be16 14 ≠ 0x0800#16 ∧
      (processing 14 (bufferAt 14 2 0x86DD)).buf.be16 14 ≠ 0x0806#16) := by decide +kernel

/-- V-41-4, V-41-5, V-L1-6, both protocols and protocol 6. -/
theorem witness_Ipv4DispatchInOrder :
    (14 ≤ rx (processing 33 icmpFrame) ∧ rx (processing 33 icmpFrame) < 34) ∧
    (let s := processing 37 (icmpFrame.setByte 16 0x46#8)
     34 ≤ rx s ∧ rx s < 14 + 4 * ihl s.buf) ∧
    (let s := processing 34 (icmpFrame.setByte 26 0#8)
     34 ≤ rx s ∧ 14 + 4 * ihl s.buf ≤ rx s ∧ checksum s.buf 16 (2 * ihl s.buf) ≠ 0#16) ∧
    (let s := processing 34 icmpFrame
     34 ≤ rx s ∧ 14 + 4 * ihl s.buf ≤ rx s ∧ checksum s.buf 16 (2 * ihl s.buf) = 0#16 ∧ s.buf.byte 25 = 1#8) ∧
    (let s := processing 34 udpFrame
     34 ≤ rx s ∧ 14 + 4 * ihl s.buf ≤ rx s ∧ checksum s.buf 16 (2 * ihl s.buf) = 0#16 ∧ s.buf.byte 25 = 17#8) ∧
    (let s := processing 60 (bufferAt 14 22 0x08004500002800004000400626ce0a0000020a000001)
     34 ≤ rx s ∧ 14 + 4 * ihl s.buf ≤ rx s ∧ checksum s.buf 16 (2 * ihl s.buf) = 0#16 ∧ s.buf.byte 25 ≠ 1#8 ∧
       s.buf.byte 25 ≠ 17#8) := by decide +kernel

/-- V-41-6b with the fewest bytes. -/
theorem witness_IhlZeroFailsTheGate :
    34 ≤ rx (processing 34 (icmpFrame.setByte 16 0x40#8)) ∧
    rx (processing 34 (icmpFrame.setByte 16 0x40#8)) ≤
      (processing 34 (icmpFrame.setByte 16 0x40#8)).params.bufSize - 2 ∧
    ihl (processing 34 (icmpFrame.setByte 16 0x40#8)).buf = 0 := by decide +kernel

/-- The rows themselves, and PROCESS on a frame of each kind: the first hypothesis of the four statements about
checks in order. -/
theorem witness_routes :
    (∀ s, RunsArp .ethArp s ∧ RunsIpv4 .ethIpv4 s ∧ RunsIcmp .ipv4Icmp s ∧ RunsUdp .ipv4Udp s) ∧
    RunsArp .process (processing 41 arpFrame) ∧ RunsIpv4 .process (processing 33 icmpFrame) ∧
    RunsIcmp .process (processing 41 icmpFrame) ∧ RunsUdp .process (processing 41 udpFrame) :=
  ⟨fun _ => ⟨.inl rfl, .inl rfl, .inl rfl, .inl rfl⟩, .inr (by decide +kernel), .inr (by decide +kernel),
    .inr ⟨.inr (by decide +kernel), by decide +kernel⟩, .inr ⟨.inr (by decide +kernel), by decide +kernel⟩⟩

/-! ### Witnesses: ARP -/

/-- 41 bytes, then V-L1-5a to V-L1-5e with 42 bytes. -/
theorem witness_ArpChecksInOrder :
    (14 ≤ rx (processing 41 arpFrame) ∧ rx (processing 41 arpFrame) < 42) ∧
    (let s := processing 42 (arpFrame.setByte 23 3#8)
     42 ≤ rx s ∧ s.buf.be16 22 ≠ 1#16) ∧
    (let s := processing 42 (arpFrame.setByte 17 6#8)
     42 ≤ rx s ∧ s.buf.be16 22 = 1#16 ∧ s.buf.be16 16 ≠ 1#16) ∧
    (let s := processing 42 (arpFrame.setByte 18 0x86#8)
     42 ≤ rx s ∧ s.buf.be16 22 = 1#16 ∧ s.buf.be16 16 = 1#16 ∧ s.buf.be16 18 ≠ 0x0800#16) ∧
    (let s := processing 42 (arpFrame.setByte 20 8#8)
     42 ≤ rx s ∧ s.buf.be16 22 = 1#16 ∧ s.buf.be16 16 = 1#16 ∧ s.buf.be16 18 = 0x0800#16 ∧ s.buf.byte 20 ≠ 6#8) ∧
    (let s := processing 42 (arpFrame.setByte 21 16#8)
     42 ≤ rx s ∧ s.buf.be16 22 = 1#16 ∧ s.buf.be16 16 = 1#16 ∧ s.buf.be16 18 = 0x0800#16 ∧ s.buf.byte 20 = 6#8 ∧
       s.buf.byte 21 ≠ 4#8) := by decide +kernel

theorem arpRequestValid (len : Nat) (h : len = 42 ∨ len = 2046) : ArpRequestValid (processing len arpFrame) := by
  rcases h with rfl | rfl <;> constructor <;> decide +kernel

/-- The shortest and the longest frame. -/
theorem witness_ArpReplyBuilt :
    (ArpRequestValid (processing 42 arpFrame) ∧ (processing 42 arpFrame).latched.lmacValid = true) ∧
    (ArpRequestValid (processing 2046 arpFrame) ∧ (processing 2046 arpFrame).latched.lmacValid = true) :=
  ⟨⟨arpRequestValid 42 (.inl rfl), rfl⟩, ⟨arpRequestValid 2046 (.inr rfl), rfl⟩⟩

/-! ### Witnesses: ICMP -/

/-- 41 bytes, V-L1-5f, V-L1-5g, V-42-13, V-42-14 and V-42-15, each at its boundary. -/
theorem witness_IcmpChecksInOrder :
    (let s := processing 41 icmpFrame
     34 ≤ rx s ∧ 14 + 4 * ihl s.buf ≤ rx s ∧ rx s < 22 + 4 * ihl s.buf) ∧
    (let s := processing 42 (icmpFrame.setByte 36 13#8)
     22 + 4 * ihl s.buf ≤ rx s ∧ s.buf.byte (l4 s.buf) ≠ 8#8) ∧
    (let s := processing 42 (icmpFrame.setByte 37 1#8)
     22 + 4 * ihl s.buf ≤ rx s ∧ s.buf.byte (l4 s.buf) = 8#8 ∧ s.buf.byte (l4 s.buf + 1) ≠ 0#8) ∧
    (let s := processing 42 (icmpFrame.setByte 19 27#8)
     22 + 4 * ihl s.buf ≤ rx s ∧ s.buf.byte (l4 s.buf) = 8#8 ∧ s.buf.byte (l4 s.buf + 1) = 0#8 ∧
       totalLength s.buf < 4 * ihl s.buf + 8) ∧
    (let s := processing 49 icmpFrame
     22 + 4 * ihl s.buf ≤ rx s ∧ s.buf.byte (l4 s.buf) = 8#8 ∧ s.buf.byte (l4 s.buf + 1) = 0#8 ∧
       4 * ihl s.buf + 8 ≤ totalLength s.buf ∧ rx s < 14 + totalLength s.buf) ∧
    (let s := processing 50 (icmpFrame.setByte 44 1#8)
     22 + 4 * ihl s.buf ≤ rx s ∧ s.buf.byte (l4 s.buf) = 8#8 ∧ s.buf.byte (l4 s.buf + 1) = 0#8 ∧
       4 * ihl s.buf + 8 ≤ totalLength s.buf ∧ 14 + totalLength s.buf ≤ rx s ∧
       checksum s.buf (l4 s.buf) (icmpWords s.buf) ≠ 0#16) := by decide +kernel

theorem icmpEchoValid (s : State)
    (h : s = processing 50 icmpFrame ∨ s = processingNoMac 50 icmpFrame ∨ s = processing 38 icmpFrameIhl3 ∨
      s = processing 82 icmpFrameIhl15) : IcmpEchoValid s := by
  rcases h with rfl | rfl | rfl | rfl <;> constructor <;> first | (constructor <;> decide +kernel) | decide +kernel

/-- IHL 5 and IHL 15, with no byte received past the datagram. -/
theorem witness_IcmpReplyBuilt :
    ((processing 50 icmpFrame).params.wf = true ∧ IcmpEchoValid (processing 50 icmpFrame) ∧
      (processing 50 icmpFrame).latched.lmacValid = true ∧ 5 ≤ ihl (processing 50 icmpFrame).buf) ∧
    ((processing 82 icmpFrameIhl15).params.wf = true ∧ IcmpEchoValid (processing 82 icmpFrameIhl15) ∧
      (processing 82 icmpFrameIhl15).latched.lmacValid = true ∧ 5 ≤ ihl (processing 82 icmpFrameIhl15).buf) :=
  ⟨⟨by decide, icmpEchoValid _ (.inl rfl), rfl, by decide +kernel⟩,
   ⟨by decide, icmpEchoValid _ (.inr (.inr (.inr rfl))), rfl, by decide +kernel⟩⟩

theorem witness_IcmpReplyValidates :
    ∃ s t : State, IcmpEchoValid s ∧ s.latched.lmacValid = true ∧ 5 ≤ ihl s.buf ∧ exec .process s = .next t :=
  ⟨processing 50 icmpFrame, complete _ (processCommand (processing 50 icmpFrame)), icmpEchoValid _ (.inl rfl), rfl,
    by decide +kernel, rfl⟩

/-- IHL 3, where the rewrites overlap, and IHL 5. -/
theorem witness_IcmpReplyForEveryHeaderLength :
    ((processing 38 icmpFrameIhl3).params.wf = true ∧ IcmpEchoValid (processing 38 icmpFrameIhl3) ∧
      (processing 38 icmpFrameIhl3).latched.lmacValid = true ∧ ihl (processing 38 icmpFrameIhl3).buf = 3) ∧
    ((processing 50 icmpFrame).params.wf = true ∧ IcmpEchoValid (processing 50 icmpFrame) ∧
      (processing 50 icmpFrame).latched.lmacValid = true) :=
  ⟨⟨by decide, icmpEchoValid _ (.inr (.inr (.inl rfl))), rfl, by decide +kernel⟩,
   ⟨by decide, icmpEchoValid _ (.inl rfl), rfl⟩⟩

/-- V-42-16 and the ARP request without a local MAC. -/
theorem witness_ReplyNeedsLocalMac :
    (ArpRequestValid (processingNoMac 42 arpFrame) ∧ (processingNoMac 42 arpFrame).latched.lmacValid = false) ∧
    (IcmpEchoValid (processingNoMac 50 icmpFrame) ∧ (processingNoMac 50 icmpFrame).latched.lmacValid = false) :=
  ⟨⟨by constructor <;> decide +kernel, rfl⟩, ⟨icmpEchoValid _ (.inr (.inl rfl)), rfl⟩⟩

/-! ### Witnesses: UDP -/

/-- 41 bytes, UDP length 33, and 83 of 84 bytes. -/
theorem witness_UdpChecksInOrder :
    (let s := processing 41 udpFrame
     34 ≤ rx s ∧ 14 + 4 * ihl s.buf ≤ rx s ∧ rx s < 22 + 4 * ihl s.buf) ∧
    (let s := processing 42 (udpFrame.setByte 41 33#8)
     22 + 4 * ihl s.buf ≤ rx s ∧ udpLength s.buf < 34) ∧
    (let s := processing 83 udpFrame
     22 + 4 * ihl s.buf ≤ rx s ∧ 34 ≤ udpLength s.buf ∧ rx s < 14 + 4 * ihl s.buf + udpLength s.buf) := by
  decide +kernel

/-- V-41-7, and the shortest length. -/
theorem witness_UdpInspected :
    UdpValid (processing 84 udpFrame) ∧ UdpValid (processing 68 (udpFrame.setByte 41 34#8)) := by
  constructor <;> constructor <;> first | (constructor <;> decide +kernel) | decide +kernel

/-! ### Witnesses: every command -/

theorem witness_ErrorsLeaveTheBuffer : ∃ (i : Instr) (s t : State), exec i s = .next t ∧ t.err = true :=
  ⟨.process, processing 13 arpFrame, complete _ (processCommand (processing 13 arpFrame)), rfl, by decide +kernel⟩

/-- Both clauses: an end that is no inspection, and one that is no checksum. -/
theorem witness_ResultRegistersKeepTheirValues :
    (∃ (i : Instr) (s t : State), exec i s = .next t ∧ t.result ≠ .okUdpInspected) ∧
    (∃ (i : Instr) (s t : State), exec i s = .next t ∧ t.result ≠ .okCsum ∧ t.result ≠ .okCsumConstruct) :=
  ⟨⟨.csum, checksumming 2#32 16 2 0 arpFrame, complete _ (csumCommand (checksumming 2#32 16 2 0 arpFrame)), rfl,
     by decide +kernel⟩,
   ⟨.process, processing 60 arpFrame, complete _ (processCommand (processing 60 arpFrame)), rfl, by decide +kernel⟩⟩

/-- The last pad byte and the first byte past the frame. -/
theorem witness_PadAndTailNeverWritten :
    ∃ (i : Instr) (s t : State), i ≠ .csumConstruct ∧ exec i s = .next t ∧
      ((1 : Nat) < 2 ∨ 2 + rx s ≤ 1) ∧ (44 < 2 ∨ 2 + rx s ≤ 44) :=
  ⟨.process, processing 42 arpFrame, complete _ (processCommand (processing 42 arpFrame)), by decide, rfl, by decide,
    by decide +kernel⟩

/-- The frame of V-L1-1 with other Ethernet addresses and another local MAC. -/
def processingOther : State :=
  accept { hostState 42 (arpFrame.setBytes 2 (List.replicate 12 0x11#8)) with lmacLo := 7#32 } 1#32

theorem other_frame_agrees :
    ∀ k, k < 30 → processingOther.buf.byte (14 + k) = (processing 42 arpFrame).buf.byte (14 + k) := by decide +kernel

/-- Two states that differ in the Ethernet addresses and in the local MAC. -/
theorem witness_ReportReadsReceivedBytesOnly :
    ∃ (s s' t t' : State), IsProcessRow .process ∧
      s'.params = s.params ∧ s'.latched.rxLen = s.latched.rxLen ∧ s'.latched.lmacValid = s.latched.lmacValid ∧
      (∀ a, 14 ≤ a → a < 2 + rx s → s'.buf.byte a = s.buf.byte a) ∧
      s'.buf.byte 2 ≠ s.buf.byte 2 ∧ s'.latched.lmac ≠ s.latched.lmac ∧
      exec .process s = .next t ∧ exec .process s' = .next t' := by
  refine ⟨processing 42 arpFrame, processingOther, complete _ (processCommand (processing 42 arpFrame)),
    complete _ (processCommand processingOther), .inl rfl, by decide +kernel, by decide +kernel,
    by decide +kernel, ?_, by decide +kernel, by decide +kernel, rfl, rfl⟩
  intro a h1 h2
  have h3 : rx (processing 42 arpFrame) = 42 := by decide +kernel
  rw [h3] at h2
  have h4 := other_frame_agrees (a - 14) (by omega)
  rwa [show 14 + (a - 14) = a by omega] at h4

/-! ### Witnesses: the host's accesses -/

/-- BUSY and IDLE. -/
theorem witness_CommandWrite :
    ((processing 60 arpFrame).inReset = false ∧ (processing 60 arpFrame).fsm = .busy) ∧
    ((hostState 60 arpFrame).inReset = false ∧ (hostState 60 arpFrame).fsm = .idle) := by decide +kernel

/-- Both LMAC flags clear and both set; the first and the last read-only offset. -/
theorem witness_RegisterReadBack :
    (State.reset.inReset = false ∧ State.reset.params.wf = true ∧ State.reset.lmacHiSet = false ∧
      State.reset.lmacLoSet = false) ∧
    ((hostState 0 arpFrame).inReset = false ∧ (hostState 0 arpFrame).params.wf = true ∧
      (hostState 0 arpFrame).lmacHiSet = true ∧ (hostState 0 arpFrame).lmacLoSet = true) ∧
    ((0x024 : Nat) ≤ 0x024 ∧ (0x024 : Nat) ≤ 0x068 ∧ 0x024 % 4 = 0) ∧
    ((0x024 : Nat) ≤ 0x068 ∧ (0x068 : Nat) ≤ 0x068 ∧ 0x068 % 4 = 0) := by decide

/-- A narrow register access, an unaligned one, unaligned and wide buffer accesses, and reset. -/
theorem witness_RefusedAccessHasNoEffect :
    ¬ AllowedAccess 2 0x008 ∧ ¬ AllowedAccess 4 0xFFFE ∧ ¬ AllowedAccess 2 0x10001 ∧ ¬ AllowedAccess 8 0x10000 ∧
    (assertReset State.reset).inReset = true := by
  simp only [AllowedAccess]
  decide

/-- The first and the last reserved offset, and the first buffer offset past BUF_SIZE, in IDLE and while BUSY. -/
theorem witness_ReservedOffsetsReadZero :
    (AllowedAccess 4 0x06C ∧ (0x068 : Nat) < 0x06C ∧ (0x06C : Nat) < 0x10000) ∧
    (AllowedAccess 4 0xFFFC ∧ (0x068 : Nat) < 0xFFFC ∧ (0xFFFC : Nat) < 0x10000) ∧
    (AllowedAccess 1 0x10800 ∧ State.reset.inReset = false ∧ 0x10000 + State.reset.params.bufSize ≤ 0x10800) ∧
    ((processing 60 arpFrame).inReset = false ∧ (processing 60 arpFrame).fsm = .busy ∧
      0x10000 + (processing 60 arpFrame).params.bufSize ≤ 0x10800) := by
  simp only [AllowedAccess]
  decide +kernel

/-- The last byte and the last word of the buffer. -/
theorem witness_HostLanesLittleEndian :
    State.reset.inReset = false ∧ State.reset.fsm = .idle ∧ State.reset.params.wf = true ∧
    ((1 : Nat) = 1 ∧ 2047 % 1 = 0 ∧ 2047 < State.reset.params.bufSize) ∧
    ((4 : Nat) = 4 ∧ 2044 % 4 = 0 ∧ 2044 < State.reset.params.bufSize) := by decide

/-- The first word and the last byte of the buffer. -/
theorem witness_BufferAccessWhileBusy :
    (processing 60 arpFrame).inReset = false ∧ (processing 60 arpFrame).fsm = .busy ∧ AllowedAccess 4 0x10000 ∧
    (AllowedAccess 1 0x107FF ∧ 0x107FF < 0x10000 + (processing 60 arpFrame).params.bufSize) := by
  simp only [AllowedAccess]
  decide +kernel

theorem witness_ReadsHaveNoSideEffect :
    State.reset.inReset = false ∧ AllowedAccess 4 0x000 ∧ AllowedAccess 1 0x1FFFF := by
  simp only [AllowedAccess]
  decide

/-! ### Witnesses: runs -/

/-- A write to CMD while BUSY, a level that asserts no reset, then the engine. -/
theorem witness_EveryAcceptedCommandCompletes :
    ∃ s : State, s.inReset = false ∧ s.fsm = .busy ∧ (∀ e, e ∈ s.schedule → ¬ AssertsReset s.params e) ∧
      s.schedule.length = 3 := by
  refine ⟨(processing 60 arpFrame).withSchedule [.write 4 0 2#32, .resetLine false, .engine], rfl, rfl, ?_, rfl⟩
  intro e he ⟨level, hl, hr⟩
  subst hl
  have h : Event.resetLine level = .resetLine false := by simpa [State.withSchedule] using he
  cases h
  exact absurd hr (by decide)

/-- A run of two steps, the completion and one more, that ends in a correct state. -/
theorem witness_CorrectRunTakesNoHazard :
    ∃ s t : State, Sys2Proof.core.run (1 + 1) s = .next t ∧ t.correct = true ∧ s.fsm = .busy :=
  ⟨processing 60 arpFrame, complete _ (processCommand (processing 60 arpFrame)), rfl, rfl, rfl⟩

/-- BUSY, with a write to CMD, a STATUS read and an access outside the window before the completion. -/
def interleaved : State :=
  (processing 60 arpFrame).withSchedule [.write 4 0 2#32, .read 4 4, .read 4 0x20000, .engine]

/-- The run that these accesses give takes no hazard. -/
theorem witness_ResultsIgnoreInterleaving :
    ∃ (accesses rest : List Event) (t : State), interleaved.inReset = false ∧ interleaved.fsm = .busy ∧
      (∀ e, e ∈ accesses → IsAccess e) ∧ interleaved.schedule = accesses ++ .engine :: rest ∧ accesses.length = 3 ∧
      Sys2Proof.core.run (accesses.length + 1) interleaved = .next t ∧ t.correct = true := by
  refine ⟨[.write 4 0 2#32, .read 4 4, .read 4 0x20000], [], _, rfl, rfl, ?_, rfl, rfl, rfl, rfl⟩
  intro e he
  simp only [List.mem_cons, List.not_mem_nil, or_false] at he
  rcases he with rfl | rfl | rfl
  · exact .inl ⟨_, _, _, rfl⟩
  · exact .inr ⟨_, _, rfl⟩
  · exact .inr ⟨_, _, rfl⟩

/-- A buffer write, a read, and a byte that the write leaves, in a run without a hazard. -/
theorem witness_ResultsStayUntilNextCommand :
    ∃ (s t : State) (accesses rest : List Event), s.inReset = false ∧ s.fsm = .idle ∧
      (∀ e, e ∈ accesses → IsAccess e ∧ ∀ size v, e ≠ .write size s.params.blockBase v) ∧
      s.schedule = accesses ++ rest ∧ accesses.length = 2 ∧
      Sys2Proof.core.run accesses.length s = .next t ∧ t.correct = true ∧
      ∀ size i v, .write size (s.params.blockBase + 0x10000 + i) v ∈ accesses → 20 < i ∨ i + size ≤ 20 := by
  refine ⟨(hostState 60 arpFrame).withSchedule [.write 4 0x10010 7#32, .read 4 4], _,
    [.write 4 0x10010 7#32, .read 4 4], [], rfl, rfl, ?_, rfl, rfl, rfl, rfl, ?_⟩
  · intro e he
    simp only [List.mem_cons, List.not_mem_nil, or_false] at he
    rcases he with rfl | rfl
    · exact ⟨.inl ⟨_, _, _, rfl⟩, fun size v h => by cases h⟩
    · exact ⟨.inr ⟨_, _, rfl⟩, fun size v h => by cases h⟩
  · intro size i v h
    have hm : ∀ e : Event, e ∈ ([.write 4 0x10010 7#32, .read 4 4] : List Event) →
        e = .write 4 0x10010 7#32 ∨ e = .read 4 4 := by
      intro e he
      simpa using he
    rcases hm _ h with h' | h'
    · injection h' with h1 h2 _
      have h3 : ((hostState 60 arpFrame).withSchedule [.write 4 0x10010 7#32, .read 4 4]).params.blockBase = 0 := rfl
      rw [h3] at h2
      omega
    · cases h'

/-- A CMD write from IDLE, a completion, and a reset from BUSY. -/
theorem witness_OnlyCommandsMoveFsm :
    (∃ s t : State, step s = .next t ∧ s.fsm = .idle ∧ t.fsm = .busy) ∧
    (∃ s t : State, step s = .next t ∧ s.fsm = .busy ∧ t.fsm = .idle ∧ s.schedule = []) ∧
    (∃ s t : State, step s = .next t ∧ s.fsm = .busy ∧ t.fsm = .idle ∧ s.schedule = [.resetLine true] ∧
      AssertsReset s.params (.resetLine true)) :=
  ⟨⟨(hostState 60 arpFrame).withSchedule [.write 4 0 1#32], _, rfl, rfl, rfl⟩,
   ⟨processing 60 arpFrame, complete _ (processCommand (processing 60 arpFrame)), rfl, rfl, rfl, rfl⟩,
   ⟨(processing 60 arpFrame).withSchedule [.resetLine true], assertReset ((processing 60 arpFrame).withSchedule []),
     rfl, rfl, rfl, rfl, true, rfl, rfl⟩⟩

theorem witness_OnlyResetClearsLmacFlags :
    ∃ s t : State, step s = .next t ∧ (∀ e rest, s.schedule = e :: rest → ¬ AssertsReset s.params e) ∧ s.lmacHiSet = true ∧
      s.lmacLoSet = true :=
  ⟨processing 60 arpFrame, complete _ (processCommand (processing 60 arpFrame)), rfl,
    fun _ _ h => absurd h (List.cons_ne_nil _ _).symm, rfl, rfl⟩

/-- A hazard that stays, a refused read and a write to the last byte of the buffer while BUSY. -/
theorem witness_HazardFaultRecord :
    (∃ s t : State, step s = .next t ∧ s.hazardFault = true) ∧
    (∃ s t : State, step s = .next t ∧ s.hazardFault = false ∧ t.hazardFault = true ∧
      s.schedule = [.read 2 0x10001]) ∧
    (∃ s t : State, step s = .next t ∧ s.hazardFault = false ∧ t.hazardFault = true ∧
      s.schedule = [.write 1 0x107FF 7#32]) :=
  ⟨⟨(refuseAccess State.reset).withSchedule [.resetLine true], _, rfl, rfl⟩,
   ⟨State.reset.withSchedule [.read 2 0x10001], _, rfl, rfl, rfl, rfl⟩,
   ⟨(processing 60 arpFrame).withSchedule [.write 1 0x107FF 7#32], _, rfl, rfl, rfl, rfl⟩⟩

/-! ### Witnesses: reset and the invariant -/

theorem witness_ResetAbandonsTheCommand :
    ∃ (s : State) (on off : Bool) (rest : List Event), s.fsm = .busy ∧
      assertsReset s.params.resetKind on = true ∧ assertsReset s.params.resetKind off = false ∧
      s.schedule = .resetLine on :: .engine :: .resetLine off :: rest :=
  ⟨(processing 60 arpFrame).withSchedule [.resetLine true, .engine, .resetLine false], true, false, [], rfl, rfl, rfl,
    rfl⟩

/-- The smallest and the largest buffer. -/
theorem witness_ResetMeetsInvariant :
    smallParams.wf = true ∧ Params.wf { smallParams with bufSize := 65536 } = true := by
  decide

theorem busy_inv : (processing 60 arpFrame).Inv := by
  constructor <;> decide +kernel

theorem witness_RegistersReadWhileBusy :
    (processing 60 arpFrame).Inv ∧ (processing 60 arpFrame).inReset = false ∧ (processing 60 arpFrame).fsm = .busy :=
  ⟨busy_inv, rfl, rfl⟩

theorem witness_StepKeepsInvariant : ∃ s t : State, s.Inv ∧ step s = .next t := 
  ⟨processing 60 arpFrame, complete _ (processCommand (processing 60 arpFrame)), busy_inv, rfl⟩

end Sys2Proof.Tests
end

section
/-! SUPPORT. What a step does, event by event: the equation for each form of the schedule's head, for the rest of the
development to rewrite with. -/

namespace Sys2Proof.Machine

/-! ### The reset signal -/

/-- A level asserts reset exactly when it is the one that the polarity of RESET_KIND calls active (00_scope.md
R11). -/
theorem assertsReset_iff (k : ResetKind) (level : Bool) :
    assertsReset k level = true ↔ (k.polarity = .activeHigh ↔ level = true) := by
  unfold assertsReset
  cases hp : k.polarity with
  | activeHigh => simp
  | activeLow => simp

theorem driveReset_of_asserts (s : State) (level : Bool) (h : assertsReset s.params.resetKind level = true) :
    driveReset s level = assertReset s := by
  rcases driveReset_cases s level with ⟨_, he⟩ | ⟨hn, _⟩
  · exact he
  · exact absurd (h.symm.trans hn) Bool.noConfusion

theorem driveReset_of_deasserts (s : State) (level : Bool) (h : assertsReset s.params.resetKind level = false) :
    driveReset s level = deassertReset s := by
  rcases driveReset_cases s level with ⟨hn, _⟩ | ⟨_, he⟩
  · exact absurd (hn.symm.trans h) Bool.noConfusion
  · exact he

/-! ### One step for each event -/

@[simp] theorem withSchedule_self (s : State) : s.withSchedule s.schedule = s := rfl

theorem step_write_inside (s : State) (rest : List Event) (size off : Nat) (v : Word) (ho : off < windowSize)
    (h : s.schedule = .write size (s.params.blockBase + off) v :: rest) :
    step s = .next (hostWrite (s.withSchedule rest) size off v) :=
  (step_cons s _ rest h).trans <| congrArg Host.Outcome.next <|
    busAccess_inside (s.withSchedule rest) off (fun o => hostWrite (s.withSchedule rest) size o v) ho

theorem step_read_inside (s : State) (rest : List Event) (size off : Nat) (ho : off < windowSize)
    (h : s.schedule = .read size (s.params.blockBase + off) :: rest) :
    step s = .next (hostRead (s.withSchedule rest) size off) :=
  (step_cons s _ rest h).trans <| congrArg Host.Outcome.next <|
    busAccess_inside (s.withSchedule rest) off (fun o => hostRead (s.withSchedule rest) size o) ho

/-- A write and a read outside the window do the same (20_memory.md R80; log entry 10). -/
theorem step_outside (s : State) (rest : List Event) (size addr : Nat) (v : Word)
    (ha : addr < s.params.blockBase ∨ s.params.blockBase + windowSize ≤ addr)
    (h : s.schedule = .write size addr v :: rest ∨ s.schedule = .read size addr :: rest) :
    step s = .next { s with schedule := rest, reply := .elsewhere } := by
  rcases h with h | h <;> rw [step_cons s _ rest h] <;>
    exact congrArg Host.Outcome.next (busAccess_outside (s.withSchedule rest) addr _ ha)

theorem step_resetLine (s : State) (rest : List Event) (level : Bool) (h : s.schedule = .resetLine level :: rest) :
    step s = .next (driveReset (s.withSchedule rest) level) := step_cons s _ rest h

theorem step_asserts (s : State) (rest : List Event) (level : Bool) (h : s.schedule = .resetLine level :: rest)
    (hl : assertsReset s.params.resetKind level = true) : step s = .next (assertReset (s.withSchedule rest)) := by
  rw [step_resetLine s rest level h, driveReset_of_asserts (s.withSchedule rest) level hl]

theorem step_deasserts (s : State) (rest : List Event) (level : Bool) (h : s.schedule = .resetLine level :: rest)
    (hl : assertsReset s.params.resetKind level = false) : step s = .next (deassertReset (s.withSchedule rest)) := by
  rw [step_resetLine s rest level h, driveReset_of_deasserts (s.withSchedule rest) level hl]

/-- The engine's turn comes with its event, and with an empty schedule (log entry 2). -/
theorem step_engine (s : State) (rest : List Event) (h : s.schedule = [] ∨ s.schedule = .engine :: rest) :
    step s = engineTurn (s.withSchedule s.schedule.tail) := by
  rcases h with h | h
  · have hw : s.withSchedule s.schedule.tail = s := by
      rw [show s.schedule.tail = s.schedule by rw [h]; rfl, withSchedule_self]
    rw [step_nil s h, hw]
  · rw [step_cons s _ rest h, h]
    rfl

theorem step_engine_rest (s : State) (rest : List Event) (h : s.schedule = [] ∨ s.schedule = .engine :: rest)
    (hr : s.fsm = .idle ∨ s.inReset = true) : step s = .next (s.withSchedule s.schedule.tail) := by
  rw [step_engine s rest h]
  exact engineTurn_rest (s.withSchedule s.schedule.tail) hr

end Sys2Proof.Machine

/-! ### The reset values -/

namespace Sys2Proof.Claims

open Sys2Proof.Machine

theorem statusWord_assertReset (s : State) : statusWord (assertReset s) = 0#32 := by
  simp [statusWord, State.busy, ResultCode.code]

/-- Reset gives every register its value of 10_state.md R60, whatever the state before held. -/
theorem resetRegisters_assertReset (s : State) : ResetRegisters (assertReset s) where
  fsm := rfl
  status := statusWord_assertReset s
  rxLen := rfl
  txLen := rfl
  lmacFlags := ⟨rfl, rfl⟩
  csumOperands := ⟨rfl, rfl, rfl⟩
  csumResult := rfl
  report := ⟨rfl, rfl⟩
  addresses := ⟨rfl, rfl⟩
  ports := ⟨rfl, rfl, rfl, rfl⟩
  magic := ⟨rfl, rfl⟩
  appPorts := ⟨rfl, rfl, rfl, rfl⟩
  payload := ⟨rfl, rfl⟩

/-- Deasserting reset changes no register (70_reset_and_hazards.md R260). -/
theorem ResetRegisters.deassertReset {s : State} (h : ResetRegisters s) : ResetRegisters (deassertReset s) :=
  { h with }

end Sys2Proof.Claims
end

section
/-! The statements of 00_scope.md: one step, and reset. -/

namespace Sys2Proof.Proofs

open Sys2Proof Sys2Proof.Machine Sys2Proof.Claims

/-- Settles O4: one step equation for each event of the schedule. -/
theorem stepTakesScheduledEvent : Obligations.StepTakesScheduledEvent := by
  intro s rest size off addr v level
  refine ⟨?write, ?read, ?outside, ?resetLine, ?engine⟩
  case write => exact step_write_inside s rest size off v
  case read => exact step_read_inside s rest size off
  case outside => exact step_outside s rest size addr v
  case resetLine =>
    exact fun h => ⟨assertsReset_iff s.params.resetKind level, step_asserts s rest level h,
      step_deasserts s rest level h⟩
  case engine => exact step_engine_rest s rest

/-- Settles O51, by the three steps one after the other: reset asserted, the engine's turn that rests because of it,
reset deasserted. -/
theorem resetAbandonsTheCommand : Obligations.ResetAbandonsTheCommand := by
  intro s on off rest hon hoff hs
  have assertStep : step s = .next (assertReset (s.withSchedule (.engine :: .resetLine off :: rest))) :=
    step_asserts s _ on hs hon
  have engineStep : step (assertReset (s.withSchedule (.engine :: .resetLine off :: rest))) =
      .next (assertReset (s.withSchedule (.resetLine off :: rest))) :=
    step_engine_rest (assertReset _) _ (.inr rfl) (.inr rfl)
  have deassertStep : step (assertReset (s.withSchedule (.resetLine off :: rest))) =
      .next (deassertReset (assertReset (s.withSchedule rest))) :=
    step_deasserts (assertReset _) rest off rfl hoff
  refine ⟨assertReset (s.withSchedule (.resetLine off :: rest)), deassertReset (assertReset (s.withSchedule rest)),
    ?run2, ?run3, resetRegisters_assertReset _, rfl, rfl, (resetRegisters_assertReset _).deassertReset,
    rfl, rfl, rfl, rfl⟩
  case run2 => rw [run_succ_of_step _ _ 1 assertStep, run_succ_of_step _ _ 0 engineStep, run_zero]
  case run3 =>
    rw [run_succ_of_step _ _ 2 assertStep, run_succ_of_step _ _ 1 engineStep, run_succ_of_step _ _ 0 deassertStep,
      run_zero]

end Sys2Proof.Proofs
end

section
/-! SUPPORT. How a command ends, said once of its completion: what every completion reports, and that it fits the
buffer. -/

namespace Sys2Proof.Machine

/-- The report of a completion is the one of its code (10_state.md R38, R40, R43, R46, R48; 60_exceptions.md R232). -/
structure Completion.Reports (c : Completion) : Prop where
  code : c.code ≠ .none
  tx : c.tx = true ↔ c.code = .okArpReply ∨ c.code = .okIcmpReply
  cleared : c.code.isError = false → c.info = 0#32 ∧ c.aux = 0#32
  txLen : c.tx = false → c.txLen = 0#17
  csum : c.code ≠ .okCsum → c.code ≠ .okCsumConstruct → c.csum = none
  inspect : c.code ≠ .okUdpInspected → c.inspect = none

/-- An error code is none of the codes that a success ends with. -/
theorem isError_ne {code : ResultCode} (h : code.isError = true) :
    code ≠ .none ∧ code ≠ .okArpReply ∧ code ≠ .okIcmpReply := by
  refine ⟨?_, ?_, ?_⟩ <;> rintro rfl <;> exact absurd h (by decide)

theorem isError_iff (code : ResultCode) : code.isError = true ↔ 0x10 ≤ code.code.toNat := by
  simp [ResultCode.isError, BitVec.le_def]

theorem Raised.reports {s : State} {c : Completion} (h : Raised s c) : c.Reports := by
  obtain ⟨code, info, aux, he, rfl⟩ := h
  obtain ⟨hnone, harp, hicmp⟩ := isError_ne he
  constructor <;> simp [he, hnone, harp, hicmp]

theorem Succeeded.reports {s : State} {c : Completion} (h : Succeeded s c) : c.Reports := by
  rcases h with ⟨_, _, rfl⟩ | ⟨_, _, _, _, rfl⟩ | ⟨_, _, rfl⟩ <;> constructor <;> simp

theorem csumCommand_reports (s : State) : (csumCommand s).Reports := by
  rcases csumCommand_ends s with h | ⟨_, h⟩
  · exact h.reports
  · rw [h]; constructor <;> simp

theorem csumConstructCommand_reports (s : State) : (csumConstructCommand s).Reports := by
  rcases csumConstructCommand_ends s with h | ⟨_, _, h⟩
  · exact h.reports
  · rw [h]; constructor <;> simp

/-- Every instruction completes with a report of its code. -/
theorem exec_reports (i : Instr) (s : State) : ∃ c, exec i s = .next (complete s c) ∧ c.Reports := by
  obtain ⟨c, hc, (h | ⟨_, h⟩) | rfl | rfl⟩ := exec_ends i s
  · exact ⟨c, hc, h.reports⟩
  · exact ⟨c, hc, h.reports⟩
  · exact ⟨_, hc, csumCommand_reports s⟩
  · exact ⟨_, hc, csumConstructCommand_reports s⟩

/-- What `exec` answered is the state at completion, with a report of its code. -/
theorem exec_next_reports {i : Instr} {s t : State} (h : exec i s = .next t) :
    ∃ c, t = complete s c ∧ c.Reports := by
  obtain ⟨c, hc, hr⟩ := exec_reports i s
  exact ⟨c, (Host.Outcome.next.inj (hc.symm.trans h)).symm, hr⟩

/-! ### A completion fits the buffer -/

/-- BUF_SIZE as numbers (00_scope.md R8). -/
theorem bufSize_bounds {p : Params} (h : p.wf = true) :
    48 ≤ p.bufSize ∧ p.bufSize ≤ 65536 ∧ p.bufSize % 8 = 0 := by
  simpa [Params.wf, and_assoc] using h

/-- The inspection registers name a payload inside the buffer (41_dispatch.md R173, R174). -/
def Inspect.PayloadWithin (size : Nat) (i : Inspect) : Prop := i.payloadOff.toNat + 8 * i.wcount.toNat ≤ size

/-- The inspection registers are those of one datagram (41_dispatch.md R170, R172). -/
def Inspect.FromDatagram (i : Inspect) : Prop :=
  34 ≤ i.ulen.toNat ∧ i.wcount.toNat = (i.ulen.toNat - 34) / 8

/-- Everything a completion leaves fits a buffer of `size` bytes (10_state.md R31, R43; 41_dispatch.md R174). -/
structure Completion.Fits (size : Nat) (c : Completion) : Prop where
  bufWf : c.buf.wf = true
  bufWithin : c.buf.within size = true
  txLen : c.txLen.toNat ≤ size ∧ c.txLen.toNat % 8 = 0
  inspect : ∀ i, c.inspect = some i → i.PayloadWithin size ∧ i.FromDatagram

theorem udpFields_fromDatagram (m : Memory) (h : 34 ≤ udpLength m) : (udpFields m).FromDatagram := by
  have hw : (BitVec.ofNat 16 ((udpLength m - 34) / 8)).toNat = (udpLength m - 34) / 8 := by
    have hb : udpLength m < 65536 := (m.be16 (l4 m + 4)).isLt
    rw [BitVec.toNat_ofNat]
    omega
  exact ⟨h, hw⟩

/-- A datagram that was received whole has its payload inside the buffer. -/
theorem udpFields_payloadWithin (size : Nat) (m : Memory) (h : 34 ≤ udpLength m)
    (hr : 16 + 4 * ihl m + udpLength m ≤ size) : (udpFields m).PayloadWithin size := by
  have hw := (udpFields_fromDatagram m h).2
  have hu : (udpFields m).ulen.toNat = udpLength m := rfl
  have hp : (udpFields m).payloadOff.toNat ≤ l4 m + 34 := by
    simp only [udpFields, BitVec.toNat_ofNat]
    exact Nat.mod_le _ _
  simp only [Inspect.PayloadWithin, l4] at *
  omega

/-- The length of a reply inside a buffer, as TX_LEN holds it (42_reply.md R222). -/
theorem ceil8_txLen (size x : Nat) (hs : size ≤ 65536) (h8 : size % 8 = 0) (hx : x ≤ size) :
    (BitVec.ofNat 17 (ceil8 x)).toNat ≤ size ∧ (BitVec.ofNat 17 (ceil8 x)).toNat % 8 = 0 := by
  simp only [ceil8, BitVec.toNat_ofNat]
  omega

section
variable {s : State} {c : Completion} (hw : s.buf.wf = true) (hi : s.buf.within s.params.bufSize = true)
include hw hi

theorem Raised.fits (h : Raised s c) : c.Fits s.params.bufSize := by
  obtain ⟨code, info, aux, _, rfl⟩ := h
  constructor <;> simp [hw, hi]

theorem Succeeded.fits (hp : s.params.wf = true) (hr : s.latched.rxLen.toNat ≤ s.params.bufSize - 2)
    (h : Succeeded s c) : c.Fits s.params.bufSize := by
  obtain ⟨hmin, hmax, h8⟩ := bufSize_bounds hp
  rcases h with ⟨_, _, rfl⟩ | ⟨_, hl, hk, _, rfl⟩ | ⟨hu, hk, rfl⟩
  case inl =>
    exact ⟨wf_arpRewrite _ _ hw, within_arpRewrite _ _ _ (by omega) hi, by simpa using hmin, by simp⟩
  case inr.inl =>
    exact ⟨wf_icmpRewrite _ _ _ _ _ hw, within_icmpRewrite _ _ _ _ _ _ (by omega) (by simp only [l4]; omega) hi,
      ceil8_txLen _ _ hmax h8 (by omega), by simp⟩
  case inr.inr =>
    refine ⟨hw, hi, ⟨Nat.zero_le _, rfl⟩, ?_⟩
    rintro _ ⟨⟩
    exact ⟨udpFields_payloadWithin _ _ hu (by omega), udpFields_fromDatagram _ hu⟩

theorem csumCommand_fits : (csumCommand s).Fits s.params.bufSize := by
  rcases csumCommand_ends s with h | ⟨_, h⟩
  · exact h.fits hw hi
  · rw [h]
    constructor <;> simp [hw, hi]

theorem csumConstructCommand_fits : (csumConstructCommand s).Fits s.params.bufSize := by
  rcases csumConstructCommand_ends s with h | ⟨_, hf, h⟩
  · exact h.fits hw hi
  · rw [h]
    exact ⟨wf_construct _ _ _ _ hw, within_construct _ _ _ _ _ hf hi, ⟨Nat.zero_le _, rfl⟩, by simp⟩

/-- Every instruction keeps the buffer's form and bounds, and its results fit the buffer. -/
theorem exec_fits (hp : s.params.wf = true) (i : Instr) {t : State} (h : exec i s = .next t) :
    ∃ c, t = complete s c ∧ c.Reports ∧ c.Fits s.params.bufSize := by
  obtain ⟨c, hc, hend⟩ := exec_ends i s
  refine ⟨c, (Host.Outcome.next.inj (hc.symm.trans h)).symm, ?_⟩
  rcases hend with (hr | ⟨hr, hs⟩) | rfl | rfl
  · exact ⟨hr.reports, hr.fits hw hi⟩
  · exact ⟨hs.reports, hs.fits hw hi hp hr⟩
  · exact ⟨csumCommand_reports s, csumCommand_fits hw hi⟩
  · exact ⟨csumConstructCommand_reports s, csumConstructCommand_fits hw hi⟩

end

end Sys2Proof.Machine
end

section
/-! SUPPORT. What one step can do, case by case, and what each access leaves unchanged. -/

namespace Sys2Proof.Machine

/-- Everything that one step from `s` can do, by the event it takes. -/
inductive StepTaken (s : State) : State → Prop where
  /-- The engine's turn with nothing to run. -/
  | rests (es : List Event) : StepTaken s (s.withSchedule es)
  /-- The engine's turn completes the running command. -/
  | completes (i : Instr) (t : State) (turn : s.schedule = [] ∨ ∃ rest, s.schedule = .engine :: rest)
      (released : s.inReset = false) (busy : s.fsm = .busy)
      (runs : exec i (s.withSchedule s.schedule.tail) = .next t) : StepTaken s t
  /-- The reset signal asserts reset. -/
  | asserts (level : Bool) (rest : List Event) (event : s.schedule = .resetLine level :: rest)
      (level_asserts : assertsReset s.params.resetKind level = true) : StepTaken s (assertReset (s.withSchedule rest))
  /-- The reset signal deasserts reset. -/
  | deasserts (rest : List Event) : StepTaken s (deassertReset (s.withSchedule rest))
  /-- An access to an address that is not PDRE's. -/
  | outside (rest : List Event) : StepTaken s { s.withSchedule rest with reply := .elsewhere }
  /-- A host write inside the window. -/
  | writes (size off : Nat) (v : Word) (rest : List Event) (inside : off < windowSize)
      (event : s.schedule = .write size (s.params.blockBase + off) v :: rest) :
      StepTaken s (hostWrite (s.withSchedule rest) size off v)
  /-- A host read inside the window. -/
  | reads (size off : Nat) (rest : List Event) (inside : off < windowSize)
      (event : s.schedule = .read size (s.params.blockBase + off) :: rest) :
      StepTaken s (hostRead (s.withSchedule rest) size off)

/-- The engine's turn rests or completes the running command. -/
theorem stepTaken_of_engineTurn {s t : State} (turn : s.schedule = [] ∨ ∃ rest, s.schedule = .engine :: rest)
    (h : engineTurn (s.withSchedule s.schedule.tail) = .next t) : StepTaken s t := by
  rcases engineTurn_cases (s.withSchedule s.schedule.tail) with he | ⟨hr, hf, he⟩ <;> rw [he] at h
  · cases h
    exact .rests _
  · exact .completes _ t turn hr hf h

theorem step_taken {s t : State} (h : step s = .next t) : StepTaken s t := by
  rcases step_cases s t h with ⟨hs, ht⟩ | ⟨e, rest, hs, ht⟩
  · refine stepTaken_of_engineTurn (.inl hs) ?_
    rwa [hs, List.tail_nil, ← hs, withSchedule_self]
  rcases runEvent_cases _ t e ht with ⟨rfl, he⟩ | ⟨level, rfl, ⟨ha, rfl⟩ | ⟨_, rfl⟩⟩ | ⟨_, rfl⟩ |
    ⟨size, off, v, ho, rfl, rfl⟩ | ⟨size, off, ho, rfl, rfl⟩
  · refine stepTaken_of_engineTurn (.inr ⟨rest, hs⟩) ?_
    rwa [hs]
  · exact .asserts level rest hs ha
  · exact .deasserts rest
  · exact .outside rest
  · exact .writes size off v rest ho hs
  · exact .reads size off rest ho hs

/-! ### One access -/

/-- What a host write that is not refused leaves of the control state: it takes no hazard, clears no LMAC flag, and
moves `fsm` only from IDLE to BUSY by a 32-bit write to CMD (10_state.md R34, R52, R54, R55). -/
structure WriteTaken (s : State) (size off : Nat) (t : State) : Prop where
  hazardFault : t.hazardFault = s.hazardFault
  lmacHiSet : s.lmacHiSet = true → t.lmacHiSet = true
  lmacLoSet : s.lmacLoSet = true → t.lmacLoSet = true
  fsm : t.fsm = s.fsm ∨ s.fsm = .idle ∧ size = 4 ∧ off = 0

theorem cmdWrite_busy (s : State) (v : Word) (h : s.fsm = .busy) : cmdWrite s v = { s with ovr := true } := by
  simp [cmdWrite, h]

theorem cmdWrite_idle (s : State) (v : Word) (h : s.fsm = .idle) : cmdWrite s v = accept s v := by
  simp [cmdWrite, h]

/-- An allowed access at window offset 0 is 32 bits wide (20_memory.md R83). -/
theorem accessWf_zero {size : Nat} (h : accessWf size 0 = true) : size = 4 := by
  rcases (accessWf_iff size 0).mp h with ⟨_, hs, _⟩ | ⟨hb, _⟩
  · exact hs
  · exact absurd hb (by decide)

/-- A host write is refused for one of the hazards of 10_state.md R55, or taken. -/
theorem hostWrite_refused_or_taken (s : State) (size off : Nat) (v : Word) :
    ((s.inReset = true ∨ accessWf size off = false ∨
        s.fsm = .busy ∧ bufferBase ≤ off ∧ off - bufferBase < s.params.bufSize) ∧
      hostWrite s size off v = refuseAccess s) ∨
    WriteTaken s size off (hostWrite s size off v) := by
  rcases hostWrite_cases s size off v with
    hrefused | ⟨_, ha, ⟨rfl, he⟩ | ⟨r, hr, _, he⟩ | ⟨_, he⟩ | ⟨_, _, _, he⟩⟩
  case inl => exact .inl hrefused
  all_goals right; rw [he]
  case inr.inl =>
    cases hf : s.fsm with
    | busy => rw [cmdWrite_busy s v hf]; exact ⟨rfl, id, id, .inl rfl⟩
    | idle => rw [cmdWrite_idle s v hf]; exact ⟨rfl, id, id, .inr ⟨hf, accessWf_zero ha, rfl⟩⟩
  case inr.inr.inl =>
    have hw := regWrite_operands s v r hr
    exact ⟨hw.hazardFault, hw.lmacHiSet, hw.lmacLoSet, .inl hw.fsm⟩
  all_goals exact ⟨rfl, id, id, .inl rfl⟩

/-- A host read changes nothing but the bus's answer, the free values taken and `hazard_fault` (20_memory.md R89). -/
theorem hostRead_frame (s : State) (size off : Nat) : ∃ hazard reply draws,
    hostRead s size off = { s with hazardFault := hazard, reply := reply, draws := draws } := by
  rcases hostRead_cases s size off with ⟨_, he⟩ | ⟨_, _, w, n, he⟩
  · exact ⟨true, .refused, s.draws, he⟩
  · exact ⟨s.hazardFault, .data w, n, he⟩

end Sys2Proof.Machine
end

section
/-! SUPPORT. The invariant at reset and under each thing that a step can do. -/

namespace Sys2Proof.Machine

/-- Every register at its reset value, over an empty list of written bytes, meets the invariant. -/
theorem inv_clearRegisters {s : State} (hp : s.params.wf = true) (hb : s.buf.cells = []) : (clearRegisters s).Inv where
  paramsWf := hp
  bufWf := by simp [Memory.wf, hb, risingFrom]
  bufWithin := by simp [Memory.within, hb]
  busyCleared := by simp
  doneIffResult := by simp
  errIffCode := rfl
  txReqIffReply := by simp
  reportOnlyOnError := by simp
  txLenOnlyOnReply := by simp
  txLenInBuffer := by simp
  latchedMacSet := by simp
  payloadInBuffer := Nat.zero_le _
  inspectFromDatagram := .inl rfl
  heldInReset := fun _ => ⟨rfl, hb⟩

/-- The environment's fields and the record of hazards are no part of the invariant. -/
theorem State.Inv.environment {s : State} (h : s.Inv) (hazard : Bool) (es : List Event) (r : Reply) (n : Nat) :
    State.Inv { s with hazardFault := hazard, schedule := es, reply := r, draws := n } where
  paramsWf := h.paramsWf
  bufWf := h.bufWf
  bufWithin := h.bufWithin
  busyCleared := h.busyCleared
  doneIffResult := h.doneIffResult
  errIffCode := h.errIffCode
  txReqIffReply := h.txReqIffReply
  reportOnlyOnError := h.reportOnlyOnError
  txLenOnlyOnReply := h.txLenOnlyOnReply
  txLenInBuffer := h.txLenInBuffer
  latchedMacSet := h.latchedMacSet
  payloadInBuffer := h.payloadInBuffer
  inspectFromDatagram := h.inspectFromDatagram
  heldInReset := fun hr => by
    obtain ⟨hc, hb⟩ := h.heldInReset hr
    exact ⟨congrArg (fun u : State => { u with hazardFault := hazard, schedule := es, reply := r, draws := n }) hc, hb⟩

theorem State.Inv.withSchedule {s : State} (h : s.Inv) (es : List Event) : (s.withSchedule es).Inv :=
  h.environment s.hazardFault es s.reply s.draws

theorem State.Inv.hostRead {s : State} (h : s.Inv) (size off : Nat) : (hostRead s size off).Inv := by
  obtain ⟨hazard, reply, draws, he⟩ := hostRead_frame s size off
  rw [he]
  exact h.environment hazard s.schedule reply draws

theorem State.Inv.assertReset {s : State} (h : s.Inv) : (assertReset s).Inv :=
  inv_clearRegisters (s := Machine.assertReset s) h.paramsWf rfl

theorem State.Inv.deassertReset {s : State} (h : s.Inv) : (deassertReset s).Inv :=
  { h with heldInReset := fun hr => absurd hr (by simp) }

/-- Completion keeps the invariant: the report is the one of its code and the results fit the buffer. -/
theorem State.Inv.complete {s : State} (h : s.Inv) (hr : s.inReset = false) {c : Completion} (hc : c.Reports)
    (hf : c.Fits s.params.bufSize) : (complete s c).Inv where
  paramsWf := h.paramsWf
  bufWf := hf.bufWf
  bufWithin := hf.bufWithin
  busyCleared := by simp
  doneIffResult := by simpa using hc.code
  errIffCode := rfl
  txReqIffReply := hc.tx
  reportOnlyOnError := hc.cleared
  txLenOnlyOnReply := hc.txLen
  txLenInBuffer := hf.txLen
  latchedMacSet := by simp
  payloadInBuffer := by
    cases hi : c.inspect with
    | none => simpa [hi] using h.payloadInBuffer
    | some i => simpa [hi, Inspect.PayloadWithin] using (hf.inspect i hi).1
  inspectFromDatagram := by
    cases hi : c.inspect with
    | none => simpa [hi] using h.inspectFromDatagram
    | some i => simpa [hi] using .inr (hf.inspect i hi).2
  heldInReset := by simp [hr]

/-- Acceptance keeps the invariant: the report is cleared, and an operand set latched as valid had both flags set. -/
theorem State.Inv.accept {s : State} (h : s.Inv) (hr : s.inReset = false) (v : Word) : (accept s v).Inv where
  paramsWf := h.paramsWf
  bufWf := h.bufWf
  bufWithin := h.bufWithin
  busyCleared := by simp
  doneIffResult := by simp
  errIffCode := rfl
  txReqIffReply := by simp
  reportOnlyOnError := by simp
  txLenOnlyOnReply := by simp
  txLenInBuffer := by simp
  latchedMacSet := by simp [latchOperands]
  payloadInBuffer := h.payloadInBuffer
  inspectFromDatagram := h.inspectFromDatagram
  heldInReset := by simp [hr]

theorem State.Inv.cmdWrite {s : State} (h : s.Inv) (hr : s.inReset = false) (v : Word) : (cmdWrite s v).Inv := by
  cases hf : s.fsm with
  | busy =>
    rw [cmdWrite_busy s v hf]
    exact { h with heldInReset := by simp [hr] }
  | idle =>
    rw [cmdWrite_idle s v hf]
    exact h.accept hr v

/-- A write to an operand register keeps the invariant: it clears no flag and touches no result. -/
theorem State.Inv.operandsWritten {s t : State} (h : s.Inv) (hr : s.inReset = false) (hw : OperandsWritten s t) :
    t.Inv where
  paramsWf := by rw [hw.params]; exact h.paramsWf
  bufWf := by rw [hw.buf]; exact h.bufWf
  bufWithin := by rw [hw.buf, hw.params]; exact h.bufWithin
  busyCleared := by rw [hw.fsm, hw.done, hw.result]; exact h.busyCleared
  doneIffResult := by rw [hw.done, hw.result]; exact h.doneIffResult
  errIffCode := by rw [hw.err, hw.result]; exact h.errIffCode
  txReqIffReply := by rw [hw.txReq, hw.result]; exact h.txReqIffReply
  reportOnlyOnError := by rw [hw.err, hw.errInfo, hw.errAux]; exact h.reportOnlyOnError
  txLenOnlyOnReply := by rw [hw.txReq, hw.txLen]; exact h.txLenOnlyOnReply
  txLenInBuffer := by rw [hw.txLen, hw.params]; exact h.txLenInBuffer
  latchedMacSet := by
    rw [hw.fsm, hw.latched]
    exact fun hf hv => (h.latchedMacSet hf hv).imp hw.lmacHiSet hw.lmacLoSet
  payloadInBuffer := by rw [hw.inspect, hw.params]; exact h.payloadInBuffer
  inspectFromDatagram := by rw [hw.inspect]; exact h.inspectFromDatagram
  heldInReset := by simp [hw.inReset, hr]

theorem State.Inv.bufWritten {s : State} (h : s.Inv) (hr : s.inReset = false) (m : Memory) (hw : m.wf = true)
    (hi : m.within s.params.bufSize = true) : State.Inv { s with buf := m } :=
  { h with bufWf := hw, bufWithin := hi, heldInReset := by simp [hr] }

theorem State.Inv.hostWrite {s : State} (h : s.Inv) (size off : Nat) (v : Word) : (hostWrite s size off v).Inv := by
  have hwf := wf_hostWrite s size off v h.bufWf
  have hin := within_hostWrite s size off v h.paramsWf h.bufWithin
  rcases hostWrite_cases s size off v with
    ⟨_, he⟩ | ⟨hr, _, ⟨_, he⟩ | ⟨r, hc, _, he⟩ | ⟨_, he⟩ | ⟨_, _, _, he⟩⟩ <;> rw [he] at hwf hin ⊢
  · exact h.environment true s.schedule .refused s.draws
  · have hk := h.cmdWrite hr v
    exact hk.environment _ _ .written _
  · have hk := h.operandsWritten hr (regWrite_operands s v r hc)
    exact hk.environment _ _ .written _
  · exact h.environment s.hazardFault s.schedule .written s.draws
  · have hk := h.bufWritten hr _ hwf hin
    exact hk.environment s.hazardFault s.schedule .written s.draws

end Sys2Proof.Machine
end

section
/-! The statements of 10_state.md. -/

namespace Sys2Proof.Proofs

open Sys2Proof Sys2Proof.Machine Sys2Proof.Claims

/-- Settles O53, by the cases of a step, each with its own lemma about the invariant. -/
theorem stepKeepsInvariant : Obligations.StepKeepsInvariant := by
  intro s t h hstep
  cases step_taken hstep with
  | rests es => exact h.withSchedule es
  | completes i t turn released busy runs =>
    have hs := h.withSchedule s.schedule.tail
    obtain ⟨c, rfl, hc, hf⟩ := exec_fits hs.bufWf hs.bufWithin hs.paramsWf i runs
    exact hs.complete released hc hf
  | asserts level rest => exact (h.withSchedule rest).assertReset
  | deasserts rest => exact (h.withSchedule rest).deassertReset
  | outside rest => exact h.environment s.hazardFault rest .elsewhere s.draws
  | writes size off v rest => exact (h.withSchedule rest).hostWrite size off v
  | reads size off rest => exact (h.withSchedule rest).hostRead size off

/-- Settles O52: reset gives every register its reset value. -/
theorem resetMeetsInvariant : Obligations.ResetMeetsInvariant :=
  fun p hp => inv_clearRegisters (s := State.resetWith p) hp rfl

end Sys2Proof.Proofs
end

section
/-! SUPPORT. Runs cut in two, and what a completion and a whole run leave unchanged. -/

namespace Sys2Proof.Machine

/-- A run of `k + 1` steps is one step and a run of `k` (the inverse of `run_succ`). -/
theorem run_succ_inv {M : Host.Core} {s t : M.State} {k : Nat} (h : M.run (k + 1) s = .next t) :
    ∃ u, M.step s = .next u ∧ M.run k u = .next t := by
  unfold Host.Core.run at h
  split at h
  next u hu => exact ⟨u, hu, h⟩
  all_goals cases h

/-- A run that ends can be cut after `j` steps. -/
theorem run_add {M : Host.Core} {s t : M.State} {j k : Nat} (h : M.run (j + k) s = .next t) :
    ∃ u, M.run j s = .next u ∧ M.run k u = .next t := by
  induction j generalizing s with
  | zero => exact ⟨s, rfl, by rwa [Nat.zero_add] at h⟩
  | succ j ih =>
    rw [Nat.succ_add] at h
    obtain ⟨s', hs, hrest⟩ := run_succ_inv h
    obtain ⟨u, hu, ht⟩ := ih hrest
    exact ⟨u, by rw [run_succ M s s' j hs, hu], ht⟩

/-- Completion leaves everything but the command's results as it was (60_exceptions.md R233). -/
theorem complete_hostSideKept (s : State) (c : Completion) : Claims.HostSideKept s (complete s c) := by
  constructor <;> rfl

/-- An access that is not well formed is none that 20_memory.md R83 allows. -/
theorem not_allowedAccess {size off : Nat} (h : accessWf size off = false) : ¬ Claims.AllowedAccess size off :=
  fun ha => absurd ((accessWf_iff size off).mpr ha) (by simp [h])

/-- Where `fsm` stays, it moves neither way. -/
theorem no_move_of_fsm_eq {a b : Fsm} {P Q : Prop} (h : b = a) :
    (a = .idle → b = .busy → P) ∧ (a = .busy → b = .idle → Q) := by
  subst h
  cases b <;> simp

/-- No step clears `hazard_fault` (10_state.md R55). -/
theorem step_keeps_hazardFault {s t : State} (hstep : step s = .next t) (h : s.hazardFault = true) :
    t.hazardFault = true := by
  cases step_taken hstep with
  | rests | asserts | deasserts | outside => exact h
  | completes i t _ _ _ runs =>
    obtain ⟨c, rfl, _⟩ := exec_next_reports runs
    exact h
  | writes size off v rest =>
    rcases hostWrite_refused_or_taken (s.withSchedule rest) size off v with ⟨_, he⟩ | ht
    · rw [he]; rfl
    · rw [ht.hazardFault]; exact h
  | reads size off rest =>
    rcases hostRead_cases (s.withSchedule rest) size off with ⟨_, he⟩ | ⟨_, _, w, n, he⟩ <;> rw [he]
    · rfl
    · exact h

/-- So does no run. -/
theorem run_keeps_hazardFault {s t : State} {k : Nat} (hrun : Sys2Proof.core.run k s = .next t)
    (h : s.hazardFault = true) : t.hazardFault = true := by
  induction k generalizing s with
  | zero =>
    cases hrun
    exact h
  | succ k ih =>
    obtain ⟨u, hu, ht⟩ := run_succ_inv hrun
    exact ih ht (step_keeps_hazardFault hu h)

end Sys2Proof.Machine
end

section
/-! The tier 2 statements of 10_state.md. -/

namespace Sys2Proof.Proofs

open Sys2Proof Sys2Proof.Machine Sys2Proof.Claims

/-- Settles O27: every completion reports its code, and `complete` touches nothing of the host's. -/
theorem everyCommandCompletes : Obligations.EveryCommandCompletes := by
  intro i s
  obtain ⟨c, hc, hr⟩ := exec_reports i s
  exact ⟨_, hc, rfl, rfl, hr.code, isError_iff c.code, hr.tx, complete_hostSideKept s c⟩

/-- Settles O29: a completion with another code writes no such register. -/
theorem resultRegistersKeepTheirValues : Obligations.ResultRegistersKeepTheirValues := by
  intro i s t h
  obtain ⟨c, rfl, hr⟩ := exec_next_reports h
  constructor
  · intro hi
    rw [complete_inspect, hr.inspect hi, Option.getD_none]
  · intro hcsum hconstruct
    rw [complete_csumResult, hr.csum hcsum hconstruct, Option.getD_none]

/-- Settles O44: the run is cut after `j` steps, and a hazard taken by then would still stand at its end. -/
theorem correctRunTakesNoHazard : Obligations.CorrectRunTakesNoHazard := by
  intro s t j k hrun ht
  obtain ⟨u, hu, hrest⟩ := run_add hrun
  refine ⟨u, hu, ?_, hrest⟩
  by_contra hno
  have hhazard : u.hazardFault = true := by simpa [State.correct] using hno
  simp [State.correct, run_keeps_hazardFault hrest hhazard] at ht

/-- Settles O47, by the cases of a step: a taken write to CMD is the only one that leaves IDLE, and completion and
reset are the only ones that leave BUSY. -/
theorem onlyCommandsMoveFsm : Obligations.OnlyCommandsMoveFsm := by
  intro s t hstep
  cases step_taken hstep with
  | rests | deasserts | outside => exact no_move_of_fsm_eq rfl
  | completes i t turn _ busy runs =>
    obtain ⟨c, rfl, _⟩ := exec_next_reports runs
    exact ⟨fun hi => absurd (hi.symm.trans busy) (by decide), fun _ _ => .inr ⟨turn, rfl⟩⟩
  | asserts level rest event hl =>
    exact ⟨fun _ hb => absurd hb (by simp), fun _ _ => .inl ⟨_, rest, event, level, rfl, hl⟩⟩
  | writes size off v rest inside event =>
    rcases hostWrite_refused_or_taken (s.withSchedule rest) size off v with ⟨_, he⟩ | ht
    · rw [he]
      exact no_move_of_fsm_eq rfl
    rcases ht.fsm with hsame | ⟨hidle, rfl, rfl⟩
    · exact no_move_of_fsm_eq hsame
    · exact ⟨fun _ _ => ⟨v, rest, event⟩, fun hb => absurd (hidle.symm.trans hb) (by decide)⟩
  | reads size off rest =>
    obtain ⟨hazard, reply, draws, he⟩ := hostRead_frame (s.withSchedule rest) size off
    rw [he]
    exact no_move_of_fsm_eq rfl

/-- Settles O48, by the cases of a step. -/
theorem onlyResetClearsLmacFlags : Obligations.OnlyResetClearsLmacFlags := by
  intro s t hstep hno
  cases step_taken hstep with
  | rests | deasserts | outside => exact ⟨id, id⟩
  | completes i t _ _ _ runs =>
    obtain ⟨c, rfl, _⟩ := exec_next_reports runs
    exact ⟨id, id⟩
  | asserts level rest event hl => exact absurd ⟨level, rfl, hl⟩ (hno _ rest event)
  | writes size off v rest =>
    rcases hostWrite_refused_or_taken (s.withSchedule rest) size off v with ⟨_, he⟩ | ht
    · rw [he]
      exact ⟨id, id⟩
    · exact ⟨ht.lmacHiSet, ht.lmacLoSet⟩
  | reads size off rest =>
    obtain ⟨hazard, reply, draws, he⟩ := hostRead_frame (s.withSchedule rest) size off
    rw [he]
    exact ⟨id, id⟩

/-- Settles O49, by the cases of a step: only a refused access sets the record. -/
theorem hazardFaultRecord : Obligations.HazardFaultRecord := by
  intro s t hstep
  refine ⟨step_keeps_hazardFault hstep, fun hs ht => ?_⟩
  cases step_taken hstep with
  | rests | asserts | deasserts | outside => exact absurd (hs.symm.trans ht) Bool.false_ne_true
  | completes i t _ _ _ runs =>
    obtain ⟨c, rfl, _⟩ := exec_next_reports runs
    exact absurd (hs.symm.trans ht) Bool.false_ne_true
  | writes size off v rest inside event =>
    refine ⟨off, rest, inside, .inl ⟨size, v, event, ?_⟩⟩
    rcases hostWrite_refused_or_taken (s.withSchedule rest) size off v with ⟨hazard, _⟩ | hw
    · rcases hazard with hr | ha | ⟨hf, hb, hl⟩
      · exact .inl hr
      · exact .inr (.inl (not_allowedAccess ha))
      · exact .inr (.inr ⟨hf, hb, (Nat.sub_lt_iff_lt_add' hb).mp hl⟩)
    · rw [hw.hazardFault] at ht
      exact absurd (hs.symm.trans ht) Bool.false_ne_true
  | reads size off rest inside event =>
    refine ⟨off, rest, inside, .inr ⟨size, event, ?_⟩⟩
    rcases hostRead_cases (s.withSchedule rest) size off with ⟨hazard, _⟩ | ⟨_, _, w, n, he⟩
    · exact hazard.imp_right not_allowedAccess
    · rw [he] at ht
      exact absurd (hs.symm.trans ht) Bool.false_ne_true

end Sys2Proof.Proofs
end

section
/-! SUPPORT. The registers as the host sees them: STATUS, the register map, and the answers to reads and writes. -/

namespace Sys2Proof.Machine

/-! ### STATUS -/

theorem append_toNat {n m : Nat} (x : BitVec n) (y : BitVec m) : (x ++ y).toNat = x.toNat * 2 ^ m + y.toNat := by
  rw [BitVec.toNat_append, Nat.shiftLeft_eq, Nat.mul_comm, ← Nat.two_pow_add_eq_or_of_lt y.isLt]

/-- STATUS as a number, each field at the weight of its bit (10_state.md R35). -/
theorem statusWord_toNat (s : State) : (statusWord s).toNat =
    s.result.code.toNat * 256 + s.err.toNat * 16 + s.ovr.toNat * 8 + s.txReq.toNat * 4 + s.done.toNat * 2 +
      s.busy.toNat := by
  unfold statusWord
  simp only [append_toNat, BitVec.toNat_ofBool, BitVec.toNat_ofNat, Nat.reducePow, Nat.zero_mod]
  omega

theorem getLsbD_eq_of_div_mod {n : Nat} (x : BitVec n) (i : Nat) (b : Bool) (h : x.toNat / 2 ^ i % 2 = b.toNat) :
    x.getLsbD i = b := by
  rw [BitVec.getLsbD, Nat.testBit_eq_decide_div_mod_eq, h]
  cases b <;> rfl

theorem extractLsb'_eq_of_div_mod {n m : Nat} (x : BitVec n) (y : BitVec m) (i : Nat)
    (h : x.toNat / 2 ^ i % 2 ^ m = y.toNat) : x.extractLsb' i m = y := by
  apply BitVec.eq_of_toNat_eq
  rw [BitVec.extractLsb'_toNat, Nat.shiftRight_eq_div_pow, h]

theorem statusWord_accept (s : State) (v : Word) : statusWord (accept s v) = 1#32 := by
  simp [statusWord, State.busy, ResultCode.code]

/-! ### The register map -/

/-- The offsets of 10_state.md R33 are multiples of 4 up to 0x068. -/
theorem offset_aligned (r : Reg) : r.offset % 4 = 0 ∧ r.offset ≤ 0x068 := by
  cases r <;> decide

theorem exists_offset_eq : ∀ k < 27, ∃ r ∈ Reg.all, r.offset = 4 * k := by decide

/-- The reserved offsets (10_state.md R50). -/
theorem regAt_eq_none (off : Nat) : regAt off = none ↔ off % 4 ≠ 0 ∨ 0x068 < off := by
  constructor
  · intro h
    by_contra hno
    obtain ⟨r, _, hr⟩ := exists_offset_eq (off / 4) (by omega)
    rw [show off = r.offset by omega, regAt_offset] at h
    cases h
  · intro h
    cases hr : regAt off with
    | none => rfl
    | some r =>
      have hoff := offset_of_regAt off r hr
      have ha := offset_aligned r
      omega

/-! ### Register accesses -/

/-- A register that is read without a free value answers its field (10_state.md R33). -/
theorem answers_register (s : State) (r : Reg) {w : Word} (hr : s.inReset = false) (hw : regRead s r = (w, 0)) :
    Claims.Answers s r.offset w := by
  rw [Claims.Answers, hostRead_register s r hr, hw, Nat.add_zero]

theorem regRead_lmacHi_set {s : State} (h : s.lmacHiSet = true) : regRead s .lmacHi = (s.lmacHi.zeroExtend 32, 0) := by
  simp [regRead, h]

theorem regRead_lmacHi_unset {s : State} (h : s.lmacHiSet = false) :
    regRead s .lmacHi = (((Config.draw s.draws).extractLsb' 0 16).zeroExtend 32, 1) := by
  simp [regRead, h]

theorem regRead_lmacLo_set {s : State} (h : s.lmacLoSet = true) : regRead s .lmacLo = (s.lmacLo, 0) := by
  simp [regRead, h]

/-- BUF_SIZE_REG holds every BUF_SIZE that the spec allows (10_state.md R49). -/
theorem bufSizeReg_toNat {p : Params} (h : p.wf = true) :
    ((BitVec.ofNat 17 p.bufSize).zeroExtend 32 : Word).toNat = p.bufSize := by
  have hb := bufSize_bounds h
  simp only [BitVec.truncate_eq_setWidth, BitVec.toNat_setWidth, BitVec.toNat_ofNat]
  omega

/-- The registers that ignore a write (10_state.md R33). -/
theorem regWrite_readOnly (s : State) (v : Word) (r : Reg)
    (h : r.offset = 0x004 ∨ r.offset = 0x00C ∨ 0x024 ≤ r.offset) : regWrite s v r = s := by
  cases r with
  | cmd | rxLen | lmacHi | lmacLo | csumOff | csumNwords | csumField => exact absurd h (by decide)
  | _ => rfl

/-- A 16-bit register keeps the low half of what is written. -/
theorem zeroExtend_low_half (v : Word) : (v.extractLsb' 0 16).zeroExtend 32 = v &&& 0x0000FFFF#32 := by
  apply BitVec.eq_of_toNat_eq
  have h := Nat.and_two_pow_sub_one_eq_mod v.toNat 16
  simp only [BitVec.truncate_eq_setWidth, BitVec.toNat_setWidth, BitVec.extractLsb'_toNat, BitVec.toNat_and,
    BitVec.toNat_ofNat, Nat.shiftRight_zero, Nat.reducePow, Nat.reduceSub, Nat.reduceMod] at *
  omega

/-- A read of a register that follows a write to it answers what `regRead` finds there. -/
theorem reply_read_after_write (s : State) (r : Reg) (v w : Word) (hr : s.inReset = false)
    (hkept : (regWrite s v r).inReset = false) (hw : (regRead { regWrite s v r with reply := .written } r).1 = w) :
    (hostRead (hostWrite s 4 r.offset v) 4 r.offset).reply = .data w := by
  rw [hostWrite_register s r v hr]
  exact (congrArg State.reply (hostRead_register { regWrite s v r with reply := .written } r hkept)).trans
    (congrArg Reply.data hw)

theorem hostWrite_cmd (s : State) (v : Word) (hr : s.inReset = false) :
    hostWrite s 4 0x000 v = { cmdWrite s v with reply := .written } := hostWrite_register s .cmd v hr

/-! ### The local MAC address -/

/-- The first two bytes in wire order stand in LMAC_HI (10_state.md R44). -/
theorem lmacValue_high (s : State) (k : Nat) (h : 4 ≤ k) :
    (lmacValue s).extractLsb' (8 * k) 8 = s.lmacHi.extractLsb' (8 * k - 32) 8 :=
  BitVec.extractLsb'_append_eq_of_le (by omega)

/-- The last four stand in LMAC_LO (10_state.md R44). -/
theorem lmacValue_low (s : State) (k : Nat) (h : k < 4) :
    (lmacValue s).extractLsb' (8 * k) 8 = s.lmacLo.extractLsb' (8 * k) 8 :=
  BitVec.extractLsb'_append_eq_of_add_le (by omega)

/-- Acceptance latches the six bytes of LMAC_HI and LMAC_LO in wire order (10_state.md R34, R44). -/
theorem lmacByte_accept (s : State) (v : Word) :
    [Claims.lmacByte (accept s v) 0, Claims.lmacByte (accept s v) 1, Claims.lmacByte (accept s v) 2,
      Claims.lmacByte (accept s v) 3, Claims.lmacByte (accept s v) 4, Claims.lmacByte (accept s v) 5] =
      [s.lmacHi.extractLsb' 8 8, s.lmacHi.extractLsb' 0 8, s.lmacLo.extractLsb' 24 8, s.lmacLo.extractLsb' 16 8,
        s.lmacLo.extractLsb' 8 8, s.lmacLo.extractLsb' 0 8] := by
  simp only [List.cons.injEq, and_true]
  exact ⟨lmacValue_high s 5 (by omega), lmacValue_high s 4 (by omega), lmacValue_low s 3 (by omega),
    lmacValue_low s 2 (by omega), lmacValue_low s 1 (by omega), lmacValue_low s 0 (by omega)⟩

/-! ### The command word -/

/-- The host's lanes of a command word, put together again, are the word (20_memory.md R82). -/
theorem littleBytes_append (v : Word) :
    (BitVec.ofNat 8 (v.toNat / 256 / 256 / 256) ++ BitVec.ofNat 8 (v.toNat / 256 / 256) ++
      BitVec.ofNat 8 (v.toNat / 256) ++ BitVec.ofNat 8 v.toNat : Word) = v := by
  have hv := v.isLt
  apply BitVec.eq_of_toNat_eq
  simp only [append_toNat, BitVec.toNat_ofNat]
  omega

theorem decodeAt_command (v : Word) : decodeAt .command (littleBytes 4 v.toNat) = .ok (decodeCommand v) :=
  congrArg (fun w => Except.ok (decodeCommand w)) (littleBytes_append v)

/-- Only a word that is none of the three commands decodes to BADCMD (30_encoding.md R102). -/
theorem decodeCommand_wellFormed (v : Word) : (decodeCommand v).wellFormed = true := by
  unfold decodeCommand
  split
  · rfl
  split
  · rfl
  split
  · rfl
  next hprocess hcsum hconstruct =>
    simp only [Instr.wellFormed, Bool.and_eq_true, decide_eq_true_eq]
    exact ⟨⟨hprocess, hcsum⟩, hconstruct⟩

end Sys2Proof.Machine
end

section
/-! The tier 1 statements of 10_state.md. -/

namespace Sys2Proof.Proofs

open Sys2Proof Sys2Proof.Machine Sys2Proof.Claims

/-- Settles O34. -/
theorem registerMap : Obligations.RegisterMap :=
  ⟨regAt_offset, rfl, regAt_eq_none⟩

/-- Settles O35, from STATUS as a number: each flag is one binary digit of it. -/
theorem statusLayout : Obligations.StatusLayout := by
  intro s
  have hnum := statusWord_toNat s
  have hcode := s.result.code.isLt
  have herr := Bool.toNat_le s.err
  have hovr := Bool.toNat_le s.ovr
  have htxReq := Bool.toNat_le s.txReq
  have hdone := Bool.toNat_le s.done
  have hbusy := Bool.toNat_le s.busy
  refine ⟨?busy, ?done, ?txReq, ?ovr, ?err, ?low, ?result, ?high⟩
  case busy =>
    rw [getLsbD_eq_of_div_mod _ 0 s.busy (by omega)]
    simp [State.busy]
  case done | txReq | ovr | err => exact getLsbD_eq_of_div_mod _ _ _ (by omega)
  case low | high => exact extractLsb'_eq_of_div_mod _ _ _ (by rw [BitVec.toNat_ofNat]; omega)
  case result => exact extractLsb'_eq_of_div_mod _ _ _ (by omega)

/-- Settles O50: reset asserted leaves the same registers as the first reset. -/
theorem resetValues : Obligations.ResetValues :=
  fun p => ⟨{ resetRegisters_assertReset (State.resetWith p) with }, rfl, rfl⟩

/-- Each register by its name: a read answers `regRead`, and only an unwritten LMAC register takes a free value. -/
theorem registerReads (s : State) (hr : s.inReset = false) (hp : s.params.wf = true) : RegisterReads s where
  cmd := answers_register s .cmd hr rfl
  status := answers_register s .status hr rfl
  rxLen := answers_register s .rxLen hr rfl
  txLen := answers_register s .txLen hr rfl
  lmacHi := fun h => answers_register s .lmacHi hr (regRead_lmacHi_set h)
  lmacHiUnset := fun h => by
    have ha := hostRead_register s .lmacHi hr
    rw [regRead_lmacHi_unset h] at ha
    exact ⟨_, _, ha⟩
  lmacLo := fun h => answers_register s .lmacLo hr (regRead_lmacLo_set h)
  lmacLoUnset := fun _ => ⟨_, _, hostRead_register s .lmacLo hr⟩
  csumOff := answers_register s .csumOff hr rfl
  csumNwords := answers_register s .csumNwords hr rfl
  csumField := answers_register s .csumField hr rfl
  csumResult := answers_register s .csumResult hr rfl
  errInfo := answers_register s .errInfo hr rfl
  errAux := answers_register s .errAux hr rfl
  inSrcIp := answers_register s .inSrcIp hr rfl
  inDstIp := answers_register s .inDstIp hr rfl
  inSport := answers_register s .inSport hr rfl
  inDport := answers_register s .inDport hr rfl
  inUlen := answers_register s .inUlen hr rfl
  inRport := answers_register s .inRport hr rfl
  inMagicLo := answers_register s .inMagicLo hr rfl
  inMagicHi := answers_register s .inMagicHi hr rfl
  inAsportLo := answers_register s .inAsportLo hr rfl
  inAsportHi := answers_register s .inAsportHi hr rfl
  inAdportLo := answers_register s .inAdportLo hr rfl
  inAdportHi := answers_register s .inAdportHi hr rfl
  inWcount := answers_register s .inWcount hr rfl
  inPayloadOff := answers_register s .inPayloadOff hr rfl
  bufSizeReg := ⟨_, answers_register s .bufSizeReg hr rfl, bufSizeReg_toNat hp⟩

/-- Each register by its name: a write is `regWrite`, which leaves a read-only register as it is. -/
theorem registerWrites (s : State) (v : Word) (hr : s.inReset = false) : RegisterWrites s v where
  rxLen := hostWrite_register s .rxLen v hr
  lmacHi := hostWrite_register s .lmacHi v hr
  lmacLo := hostWrite_register s .lmacLo v hr
  csumOff := hostWrite_register s .csumOff v hr
  csumNwords := hostWrite_register s .csumNwords v hr
  csumField := hostWrite_register s .csumField v hr
  readOnly := fun off hoff => by
    cases ha : regAt off with
    | none =>
      have hreserved := (regAt_eq_none off).mp ha
      omega
    | some r =>
      obtain rfl := offset_of_regAt off r ha
      have hw := hostWrite_register s r v hr
      rwa [regWrite_readOnly s v r (by omega)] at hw

/-- Settles O33: every register through `regRead` and `regWrite`. -/
theorem registerReadBack : Obligations.RegisterReadBack := by
  intro s v hr hp
  refine ⟨registerReads s hr hp, registerWrites s v hr, ?half, ?word⟩
  case half =>
    rintro off (rfl | rfl | rfl | rfl | rfl)
    · exact reply_read_after_write s .rxLen v _ hr hr (zeroExtend_low_half v)
    · exact reply_read_after_write s .lmacHi v _ hr hr (zeroExtend_low_half v)
    · exact reply_read_after_write s .csumOff v _ hr hr (zeroExtend_low_half v)
    · exact reply_read_after_write s .csumNwords v _ hr hr (zeroExtend_low_half v)
    · exact reply_read_after_write s .csumField v _ hr hr (zeroExtend_low_half v)
  case word => exact reply_read_after_write s .lmacLo v v hr hr rfl

/-- Settles O32, by the two control states. -/
theorem commandWrite : Obligations.CommandWrite := by
  intro s v hr
  refine ⟨answers_register s .cmd hr rfl, fun hf => ?busy, fun hf => ⟨_, rfl, ?idle⟩⟩
  case busy => rw [hostWrite_cmd s v hr, cmdWrite_busy s v hf]
  case idle =>
    rw [hostWrite_cmd s v hr, cmdWrite_idle s v hf]
    refine ⟨rfl, statusWord_accept s v, rfl, rfl, rfl, rfl, rfl, rfl, rfl, rfl, ?lmacValid, lmacByte_accept s v, rfl⟩
    simp [latchOperands]

/-- Settles O3: the host's lanes of `L.cmd` decode to the command that the engine's turn runs. -/
theorem stepRunsDecodedCommand : Obligations.StepRunsDecodedCommand := by
  intro s i rest hr hf hs hi
  obtain rfl := Except.ok.inj ((decodeAt_command s.latched.cmd).symm.trans hi)
  refine ⟨decodeCommand_wellFormed s.latched.cmd, ?_⟩
  rw [step_engine s rest hs]
  exact engineTurn_busy (s.withSchedule s.schedule.tail) hr hf

end Sys2Proof.Proofs
end

section
/-! SUPPORT. Host accesses in lanes: the bytes of a word as the bus carries them, and the accesses that are refused,
reserved, or in the buffer. -/

namespace Sys2Proof.Machine

/-! ### Lanes as numbers -/

/-- A byte put below three bytes or fewer (20_memory.md R82). -/
theorem lane_push_toNat (b : Byte) (w : Word) (h : w.toNat < 2 ^ 24) :
    (b.zeroExtend 32 ||| w <<< 8).toNat = b.toNat + 256 * w.toNat := by
  have hshift : w.toNat <<< 8 % 2 ^ 32 = 2 ^ 8 * w.toNat := by rw [Nat.shiftLeft_eq]; omega
  have hbyte : b.toNat % 2 ^ 32 = b.toNat := by omega
  simp only [BitVec.truncate_eq_setWidth, BitVec.toNat_or, BitVec.toNat_setWidth, BitVec.toNat_shiftLeft, hshift, hbyte]
  rw [Nat.or_comm, ← Nat.two_pow_add_eq_or_of_lt b.isLt, Nat.add_comm]

/-- The lanes above those read are 0 (log entry 16). -/
theorem lanes_lt (m : Memory) (a n : Nat) (h : n ≤ 4) : (m.lanes a n).toNat < 256 ^ n := by
  induction n generalizing a with
  | zero => exact Nat.one_pos
  | succ n ih =>
    have hrest := ih (a + 1) (by omega)
    have hpow : 256 ^ n ≤ 256 ^ 3 := Nat.pow_le_pow_right (by omega) (by omega)
    have hb := (m.byte a).isLt
    rw [Memory.lanes, lane_push_toNat _ _ (by omega), Nat.pow_succ]
    omega

theorem lanes_succ_toNat (m : Memory) (a n : Nat) (h : n < 4) :
    (m.lanes a (n + 1)).toNat = (m.byte a).toNat + 256 * (m.lanes (a + 1) n).toNat := by
  have hrest := lanes_lt m (a + 1) n h.le
  have hpow : 256 ^ n ≤ 256 ^ 3 := Nat.pow_le_pow_right (by omega) (by omega)
  exact lane_push_toNat _ _ (by omega)

/-- Lane `k` of a host read is byte `k` (20_memory.md R82). -/
theorem lanes_extract (m : Memory) (a n k : Nat) (hn : n ≤ 4) (hk : k < n) :
    (m.lanes a n).extractLsb' (8 * k) 8 = m.byte (a + k) := by
  refine extractLsb'_eq_of_div_mod _ _ _ ?_
  rw [Nat.pow_mul]
  induction n generalizing a k with
  | zero => omega
  | succ n ih =>
    rw [lanes_succ_toNat m a n hn]
    have hb := (m.byte a).isLt
    cases k with
    | zero =>
      rw [Nat.pow_zero, Nat.div_one]
      show _ = (m.byte a).toNat
      omega
    | succ k =>
      rw [Nat.pow_succ', ← Nat.div_div_eq_div_mul, show a + (k + 1) = a + 1 + k by omega,
        ← ih (a + 1) k (by omega) (by omega)]
      congr 2
      omega

/-- Bytes that are the lowest digits of a number read back as those digits. -/
theorem lanes_of_digits (m : Memory) (a n x : Nat) (hn : n ≤ 4)
    (h : ∀ k, k < n → (m.byte (a + k)).toNat = x / 256 ^ k % 256) : (m.lanes a n).toNat = x % 256 ^ n := by
  induction n generalizing a x with
  | zero => exact (Nat.mod_one x).symm
  | succ n ih =>
    have hlow : (m.byte a).toNat = x % 256 := by simpa using h 0 (by omega)
    have hrest : (m.lanes (a + 1) n).toNat = x / 256 % 256 ^ n := by
      refine ih (a + 1) (x / 256) (by omega) fun k hk => ?_
      rw [Nat.div_div_eq_div_mul, ← Nat.pow_succ', ← h (k + 1) (by omega), Nat.add_assoc, Nat.add_comm 1 k]
    rw [lanes_succ_toNat m a n hn, hlow, hrest, Nat.pow_succ', Nat.mod_mul]

/-- A host write stores lane `k` at offset `k` (20_memory.md R82). -/
theorem byte_setBytes_laneBytes (m : Memory) (a n k : Nat) (v : Word) (h : k < n) :
    (m.setBytes a (laneBytes v n)).byte (a + k) = v.extractLsb' (8 * k) 8 := by
  rw [byte_setBytes, laneBytes_length, if_pos (by omega), Nat.add_sub_cancel_left, laneBytes_getD v n k h]

/-- Read back at the same width, a host write answers the bits written. -/
theorem lanes_setBytes_laneBytes (m : Memory) (a n : Nat) (v : Word) (hn : n ≤ 4) :
    ((m.setBytes a (laneBytes v n)).lanes a n).toNat = v.toNat % 256 ^ n := by
  refine lanes_of_digits _ _ _ _ hn fun k hk => ?_
  rw [byte_setBytes_laneBytes m a n k v hk, BitVec.extractLsb'_toNat, Nat.shiftRight_eq_div_pow, Nat.pow_mul]

/-! ### Accesses to the buffer -/

/-- An access of an allowed width at a natural offset of buffer space is allowed (20_memory.md R83). -/
theorem accessWf_buffer {size i : Nat} (hs : size = 1 ∨ size = 2 ∨ size = 4) (hi : i % size = 0) :
    accessWf size (bufferBase + i) = true := by
  refine (accessWf_iff size (bufferBase + i)).mpr (.inr ⟨Nat.le_add_right _ _, hs, ?_⟩)
  rcases hs with rfl | rfl | rfl <;> simp only [bufferBase] <;> omega

section
variable (s : State) {size i : Nat} (hr : s.inReset = false) (hf : s.fsm = .idle)
  (ha : accessWf size (bufferBase + i) = true) (hi : i < s.params.bufSize)
include hr hf ha hi

/-- In IDLE a read of the buffer answers its bytes in their lanes (20_memory.md R82). -/
theorem hostRead_buffer_idle :
    hostRead s size (bufferBase + i) = { s with reply := .data (s.buf.lanes i size) } := by
  rw [hostRead_buffer s size i hr ha, bufSpaceRead, if_neg (Nat.not_le.mpr hi), hf]

/-- In IDLE a write to the buffer stores its lanes (20_memory.md R82). -/
theorem hostWrite_buffer_idle (v : Word) : hostWrite s size (bufferBase + i) v =
    { s with buf := s.buf.setBytes i (laneBytes v size), reply := .written } := by
  rw [hostWrite_buffer s size i v hr ha, bufSpaceWrite, if_neg (Nat.not_le.mpr hi), hf]

end

/-! ### Refused and reserved accesses -/

section
variable {s : State} {size off : Nat} (h : s.inReset = true ∨ accessWf size off = false)
include h

/-- An access that is not well formed, and every access during reset, is refused (20_memory.md R84;
70_reset_and_hazards.md R262). -/
theorem hostWrite_refused (v : Word) : hostWrite s size off v = refuseAccess s := by
  rw [hostWrite, if_pos (by simpa using h)]

theorem hostRead_refused : hostRead s size off = refuseAccess s := by
  rw [hostRead, if_pos (by simpa using h)]

end

/-- The offsets that hold neither a register nor a buffer byte (20_memory.md R85). -/
def ReservedOffset (s : State) (off : Nat) : Prop :=
  off < bufferBase ∧ regAt off = none ∨ bufferBase + s.params.bufSize ≤ off

/-- The words of 20_memory.md R85 name reserved offsets. -/
theorem reservedOffset_of_range {s : State} {off : Nat}
    (h : 0x068 < off ∧ off < 0x10000 ∨ 0x10000 + s.params.bufSize ≤ off) : ReservedOffset s off :=
  h.imp_left fun ⟨hlow, hhigh⟩ => ⟨hhigh, (regAt_eq_none off).mpr (.inr hlow)⟩

section
variable {s : State} {size off : Nat} (hr : s.inReset = false) (ha : accessWf size off = true)
  (h : ReservedOffset s off)
include hr ha h

theorem hostWrite_reserved (v : Word) : hostWrite s size off v = { s with reply := .written } := by
  rcases h with ⟨hb, hreg⟩ | hb
  · rw [hostWrite, if_neg (by simp [hr, ha]), if_pos hb, regSpaceWrite, hreg]
  · obtain ⟨i, rfl⟩ := Nat.exists_eq_add_of_le (Nat.le_of_add_right_le hb)
    rw [hostWrite_buffer s size i v hr ha, bufSpaceWrite, if_pos (Nat.le_of_add_le_add_left hb)]

theorem hostRead_reserved : hostRead s size off = { s with reply := .data 0#32 } := by
  rcases h with ⟨hb, hreg⟩ | hb
  · rw [hostRead, if_neg (by simp [hr, ha]), if_pos hb, regSpaceRead, hreg]
  · obtain ⟨i, rfl⟩ := Nat.exists_eq_add_of_le (Nat.le_of_add_right_le hb)
    rw [hostRead_buffer s size i hr ha, bufSpaceRead, if_pos (Nat.le_of_add_le_add_left hb)]

end

end Sys2Proof.Machine
end

section
/-! SUPPORT. What a host access other than a command leaves as it was, and what a run of such accesses does. -/

namespace Sys2Proof.Claims

open Sys2Proof.Machine

theorem SameResults.refl (s : State) : SameResults s s := by constructor <;> rfl

theorem SameResults.trans {s t u : State} (h : SameResults s t) (h' : SameResults t u) : SameResults s u where
  fsm := h.fsm.trans h'.fsm
  done := h.done.trans h'.done
  txReq := h.txReq.trans h'.txReq
  err := h.err.trans h'.err
  result := h.result.trans h'.result
  txLen := h.txLen.trans h'.txLen
  errInfo := h.errInfo.trans h'.errInfo
  errAux := h.errAux.trans h'.errAux
  csumResult := h.csumResult.trans h'.csumResult
  inspect := h.inspect.trans h'.inspect

end Sys2Proof.Claims

namespace Sys2Proof.Machine

open Sys2Proof.Claims

/-- What every host access but an accepted command leaves as it was: the results, and everything that neither the host
nor the bus writes (20_memory.md R91, R92). -/
structure AccessKept (s t : State) : Prop where
  results : SameResults t s
  params : t.params = s.params
  latched : t.latched = s.latched
  inReset : t.inReset = s.inReset
  schedule : t.schedule = s.schedule

theorem OperandsWritten.kept {s t : State} (h : OperandsWritten s t) : AccessKept s t where
  results := ⟨h.fsm, h.done, h.txReq, h.err, h.result, h.txLen, h.errInfo, h.errAux, h.csumResult, h.inspect⟩
  params := h.params
  latched := h.latched
  inReset := h.inReset
  schedule := h.schedule

/-- The fields that an access writes besides operands are none of those that it keeps. -/
theorem AccessKept.written {s t : State} (h : AccessKept s t) (m : Memory) (ovr hazard : Bool) (r : Reply) (n : Nat) :
    AccessKept s { t with buf := m, ovr := ovr, hazardFault := hazard, reply := r, draws := n } :=
  { h with results := { h.results with } }

theorem AccessKept.refl (s : State) : AccessKept s s := ⟨SameResults.refl s, rfl, rfl, rfl, rfl⟩

/-- One access after another, the second from the schedule that the first one leaves. -/
theorem AccessKept.then {s u t : State} {es rest : List Event} (h : AccessKept (s.withSchedule es) u)
    (h' : AccessKept (u.withSchedule rest) t) : AccessKept (s.withSchedule rest) t where
  results :=
    have hfirst : SameResults u (s.withSchedule rest) := { h.results with }
    have hsecond : SameResults t u := { h'.results with }
    hsecond.trans hfirst
  params := h'.params.trans h.params
  latched := h'.latched.trans h.latched
  inReset := h'.inReset.trans h.inReset
  schedule := h'.schedule

theorem hostRead_kept (s : State) (size off : Nat) : AccessKept s (hostRead s size off) := by
  obtain ⟨hazard, reply, draws, he⟩ := hostRead_frame s size off
  rw [he]
  exact (AccessKept.refl s).written s.buf s.ovr hazard reply draws

/-- A host write keeps the results unless a command is accepted (10_state.md R34). -/
theorem hostWrite_kept (s : State) (size off : Nat) (v : Word) (h : off ≠ 0 ∨ s.fsm = .busy) :
    AccessKept s (hostWrite s size off v) := by
  have hkept := AccessKept.refl s
  rcases hostWrite_cases s size off v with
    ⟨_, he⟩ | ⟨_, _, ⟨hcmd, he⟩ | ⟨r, hr, _, he⟩ | ⟨_, he⟩ | ⟨_, _, _, he⟩⟩ <;> rw [he]
  · exact hkept.written s.buf s.ovr true .refused s.draws
  · rw [cmdWrite_busy s v (h.resolve_left (not_not_intro hcmd))]
    exact hkept.written s.buf true s.hazardFault .written s.draws
  · have hw := (regWrite_operands s v r hr).kept
    exact hw.written _ _ _ .written _
  · exact hkept.written s.buf s.ovr s.hazardFault .written s.draws
  · exact hkept.written _ s.ovr s.hazardFault .written s.draws

theorem buf_cmdWrite (s : State) (v : Word) : (cmdWrite s v).buf = s.buf := by
  cases hf : s.fsm with
  | busy => rw [cmdWrite_busy s v hf]
  | idle => rw [cmdWrite_idle s v hf, accept_buf]

theorem buf_hostRead (s : State) (size off : Nat) : (hostRead s size off).buf = s.buf := by
  obtain ⟨hazard, reply, draws, he⟩ := hostRead_frame s size off
  rw [he]

/-- A host write changes no byte but those it addresses (20_memory.md R82). -/
theorem byte_hostWrite_outside (s : State) (size off a : Nat) (v : Word)
    (h : bufferBase ≤ off → bufferBase + a < off ∨ off + size ≤ bufferBase + a) :
    (hostWrite s size off v).buf.byte a = s.buf.byte a := by
  rcases hostWrite_cases s size off v with
    ⟨_, he⟩ | ⟨_, _, ⟨_, he⟩ | ⟨r, hr, _, he⟩ | ⟨_, he⟩ | ⟨_, hb, _, he⟩⟩ <;> rw [he]
  · rfl
  · exact congrArg (Memory.byte · a) (buf_cmdWrite s v)
  · exact congrArg (Memory.byte · a) (regWrite_operands s v r hr).buf
  · have hout := h hb
    exact byte_setBytes_outside _ _ _ _ (by rw [laneBytes_length]; omega)

/-! ### Runs of accesses -/

/-- What a step on a host access does: the event it took and the state it leaves, from the state `u` that no longer
holds the event. -/
inductive AccessTaken (u : State) : Event → State → Prop where
  | outside (e : Event) : AccessTaken u e { u with reply := .elsewhere }
  | write (size off : Nat) (v : Word) :
      AccessTaken u (.write size (u.params.blockBase + off) v) (hostWrite u size off v)
  | read (size off : Nat) : AccessTaken u (.read size (u.params.blockBase + off)) (hostRead u size off)

/-- A step on a host access answers a next state (60_exceptions.md R247(d)). -/
theorem step_access {s : State} {e : Event} {rest : List Event} (he : IsAccess e) (hs : s.schedule = e :: rest) :
    ∃ t, step s = .next t ∧ AccessTaken (s.withSchedule rest) e t := by
  rw [step_cons s e rest hs]
  rcases he with ⟨size, addr, v, rfl⟩ | ⟨size, addr, rfl⟩
  · refine ⟨_, rfl, ?_⟩
    rcases busAccess_cases (s.withSchedule rest) addr (fun off => hostWrite (s.withSchedule rest) size off v) with
      he | ⟨off, _, rfl, he⟩ <;> rw [he]
    · exact .outside _
    · exact .write size off v
  · refine ⟨_, rfl, ?_⟩
    rcases busAccess_cases (s.withSchedule rest) addr (fun off => hostRead (s.withSchedule rest) size off) with
      he | ⟨off, _, rfl, he⟩ <;> rw [he]
    · exact .outside _
    · exact .read size off

theorem AccessTaken.kept {u t : State} {e : Event} (h : AccessTaken u e t)
    (hcmd : (∀ size v, e ≠ .write size u.params.blockBase v) ∨ u.fsm = .busy) : AccessKept u t := by
  cases h with
  | outside => exact (AccessKept.refl u).written u.buf u.ovr u.hazardFault .elsewhere u.draws
  | write size off v => exact hostWrite_kept u size off v (hcmd.imp_left fun hne => by rintro rfl; exact hne size v rfl)
  | read size off => exact hostRead_kept u size off

/-- No access of the list writes buffer byte `a` of the window at `base`. -/
def Unwritten (base : Nat) (accesses : List Event) (a : Nat) : Prop :=
  ∀ size i v, .write size (base + 0x10000 + i) v ∈ accesses → a < i ∨ i + size ≤ a

theorem unwritten_cons {base a : Nat} {e : Event} {rest : List Event} :
    Unwritten base (e :: rest) a ↔ Unwritten base [e] a ∧ Unwritten base rest a := by
  simp only [Unwritten, List.mem_cons, List.not_mem_nil, or_false, or_imp, forall_and]

/-- A buffer byte changes only where the host writes it (20_memory.md R92). -/
theorem AccessTaken.byte {u t : State} {e : Event} {a : Nat} (h : AccessTaken u e t)
    (ha : Unwritten u.params.blockBase [e] a) : t.buf.byte a = u.buf.byte a := by
  cases h with
  | outside => rfl
  | write size off v =>
    refine byte_hostWrite_outside u size off a v fun hb => ?_
    obtain ⟨i, rfl⟩ := Nat.exists_eq_add_of_le hb
    have hi := ha size i v (by rw [Nat.add_assoc]; exact List.mem_cons_self)
    omega
  | read size off => rw [buf_hostRead]

/-- A run over host accesses that accepts no command goes through, keeps the results, and changes a buffer byte only
where the host writes it. -/
theorem run_accesses (accesses rest : List Event) (s : State) (hs : s.schedule = accesses ++ rest)
    (h : ∀ e, e ∈ accesses → IsAccess e ∧ ((∀ size v, e ≠ .write size s.params.blockBase v) ∨ s.fsm = .busy)) :
    ∃ t : State, Sys2Proof.core.run accesses.length s = .next t ∧ AccessKept (s.withSchedule rest) t ∧
      ∀ a, Unwritten s.params.blockBase accesses a → t.buf.byte a = s.buf.byte a := by
  induction accesses generalizing s with
  | nil =>
    have hself : s.withSchedule rest = s := by rw [← List.nil_append rest, ← hs, withSchedule_self]
    exact ⟨s, run_zero s, hself ▸ AccessKept.refl s, fun _ _ => rfl⟩
  | cons e es ih =>
    obtain ⟨haccess, hcmd⟩ := h e List.mem_cons_self
    obtain ⟨u, hstep, htaken⟩ := step_access haccess hs
    have hu : AccessKept (s.withSchedule (es ++ rest)) u := htaken.kept hcmd
    have hparams : u.params = s.params := hu.params
    have hfsm : u.fsm = s.fsm := hu.results.fsm
    obtain ⟨t, hrun, ht, hbyte⟩ := ih u hu.schedule fun e' he' => by
      rw [hparams, hfsm]
      exact h e' (List.mem_cons_of_mem e he')
    refine ⟨t, (run_succ_of_step s u es.length hstep).trans hrun, hu.then ht, fun a ha => ?_⟩
    obtain ⟨hhead, htail⟩ := unwritten_cons.mp ha
    exact (hbyte a (hparams ▸ htail)).trans (htaken.byte hhead)

end Sys2Proof.Machine
end

section
/-! The statements of 20_memory.md. -/

namespace Sys2Proof.Proofs

open Sys2Proof Sys2Proof.Machine Sys2Proof.Claims

/-- Settles O39: the lanes of the buffer, read and written. -/
theorem hostLanesLittleEndian : Obligations.HostLanesLittleEndian := by
  intro s size i v hr hf _ hs halign hi
  have hn : size ≤ 4 := by omega
  have ha := accessWf_buffer hs halign
  have hwrite := hostWrite_buffer_idle s hr hf ha hi v
  have hback :=
    hostRead_buffer_idle { s with buf := s.buf.setBytes i (laneBytes v size), reply := .written } hr hf ha hi
  refine ⟨⟨_, hostRead_buffer_idle s hr hf ha hi, ?readLanes⟩, _, hwrite, ?writeLanes, ?outside, rfl, _,
    congrArg State.reply hback, ?readBack⟩
  case readLanes => exact fun k hk => lanes_extract s.buf i size k hn hk
  case writeLanes => exact fun k hk => byte_setBytes_laneBytes s.buf i size k v hk
  case outside => exact fun a hout => byte_setBytes_outside s.buf i _ a (by rwa [laneBytes_length])
  case readBack => exact lanes_setBytes_laneBytes s.buf i size v hn

/-- Settles O46, as a run over accesses none of which is a command. -/
theorem resultsStayUntilNextCommand : Obligations.ResultsStayUntilNextCommand := by
  intro s accesses rest _ _ h hs
  obtain ⟨t, hrun, hkept, hbyte⟩ := run_accesses accesses rest s hs fun e he => (h e he).imp_right .inl
  have hsame : SameResults t s := { hkept.results with }
  exact ⟨t, hrun, hkept.schedule, fun _ => ⟨hsame, hbyte⟩⟩

/-- Settles O37: an access that R83 does not allow is not well formed, so it is refused. -/
theorem refusedAccessHasNoEffect : Obligations.RefusedAccessHasNoEffect := by
  intro s size off v h
  have hrefused : s.inReset = true ∨ accessWf size off = false :=
    h.symm.imp_right fun hno => Bool.eq_false_of_not_eq_true (mt (accessWf_iff size off).mp hno)
  exact ⟨hostWrite_refused hrefused v, hostRead_refused hrefused⟩

/-- Settles O38: the ranges of R85 are the reserved offsets. -/
theorem reservedOffsetsReadZero : Obligations.ReservedOffsetsReadZero := by
  intro s size off v hr hallowed hrange
  have ha : accessWf size off = true := (accessWf_iff size off).mpr hallowed
  have hreserved := reservedOffset_of_range hrange
  exact ⟨hostWrite_reserved hr ha hreserved v, hostRead_reserved hr ha hreserved⟩

/-- Settles O41: an allowed read out of reset is not refused, and what is not refused answers. -/
theorem readsHaveNoSideEffect : Obligations.ReadsHaveNoSideEffect := by
  intro s size off hr hallowed
  rcases hostRead_cases s size off with ⟨hreset | hwf, _⟩ | ⟨_, _, hanswer⟩
  · exact absurd (hr.symm.trans hreset) Bool.false_ne_true
  · exact absurd hallowed (not_allowedAccess hwf)
  · exact hanswer

end Sys2Proof.Proofs
end

section
/-! SUPPORT. The decoder as an inverse of the encoder: what each key table answers, and the bytes of a word put
together from bytes. -/

namespace Sys2Proof

open Sys2Proof.Machine

/-! ### Words and their bytes -/

/-- The lowest byte of a word comes first in the host's lanes (20_memory.md R82). -/
theorem littleBytes_append_byte {w : Nat} (n : Nat) (x : BitVec w) (b : Byte) :
    littleBytes (n + 1) (x ++ b).toNat = b :: littleBytes n x.toNat := by
  have hb := b.isLt
  have hlow : BitVec.ofNat 8 (x ++ b).toNat = b := by
    apply BitVec.eq_of_toNat_eq
    rw [BitVec.toNat_ofNat, append_toNat]
    omega
  have hrest : (x ++ b).toNat / 256 = x.toNat := by
    rw [append_toNat]
    omega
  rw [littleBytes, hlow, hrest]

@[simp] theorem littleBytes_one (b : Byte) : littleBytes 1 b.toNat = [b] := by
  simp [littleBytes]

/-- The lowest byte of a word comes last in network order (20_memory.md R81). -/
theorem bigBytes_append_byte {w : Nat} (n : Nat) (x : BitVec w) (b : Byte) :
    bigBytes (n + 1) (x ++ b).toNat = bigBytes n x.toNat ++ [b] := by
  rw [bigBytes, littleBytes_append_byte, List.reverse_cons, bigBytes]

@[simp] theorem bigBytes_one (b : Byte) : bigBytes 1 b.toNat = [b] := by
  simp [bigBytes]

/-! ### The key tables -/

/-- Every other command word is BADCMD with that word (30_encoding.md R102). -/
theorem decodeCommand_badcmd {v : Word} (hprocess : v ≠ cmdProcess) (hcsum : v ≠ cmdCsum)
    (hconstruct : v ≠ cmdCsumConstruct) : decodeCommand v = .badcmd v := by
  rw [decodeCommand, if_neg hprocess, if_neg hcsum, if_neg hconstruct]

theorem decodeEtherType_eq_ok {v : Half} {i : Instr} :
    decodeEtherType v = .ok i ↔ v = keyEthIpv4 ∧ i = .ethIpv4 ∨ v = keyEthArp ∧ i = .ethArp := by
  constructor
  · unfold decodeEtherType
    split
    next hv => exact fun h => .inl ⟨hv, (Except.ok.inj h).symm⟩
    split
    next hv => exact fun h => .inr ⟨hv, (Except.ok.inj h).symm⟩
    next => exact nofun
  · rintro (⟨rfl, rfl⟩ | ⟨rfl, rfl⟩) <;> rfl

theorem decodeArpHeader_eq_ok {v : BitVec 64} {i : Instr} :
    decodeArpHeader v = .ok i ↔ v = keyArpRequest ∧ i = .arpRequest := by
  constructor
  · unfold decodeArpHeader
    split
    next hv => exact fun h => ⟨hv, (Except.ok.inj h).symm⟩
    next => exact nofun
  · rintro ⟨rfl, rfl⟩
    rfl

theorem decodeIpProtocol_eq_ok {v : Byte} {i : Instr} :
    decodeIpProtocol v = .ok i ↔ v = keyIpv4Icmp ∧ i = .ipv4Icmp ∨ v = keyIpv4Udp ∧ i = .ipv4Udp := by
  constructor
  · unfold decodeIpProtocol
    split
    next hv => exact fun h => .inl ⟨hv, (Except.ok.inj h).symm⟩
    split
    next hv => exact fun h => .inr ⟨hv, (Except.ok.inj h).symm⟩
    next => exact nofun
  · rintro (⟨rfl, rfl⟩ | ⟨rfl, rfl⟩) <;> rfl

theorem decodeIcmpHeader_eq_ok {v : Half} {i : Instr} :
    decodeIcmpHeader v = .ok i ↔ v = keyIcmpEcho ∧ i = .icmpEchoRequest := by
  constructor
  · unfold decodeIcmpHeader
    split
    next hv => exact fun h => ⟨hv, (Except.ok.inj h).symm⟩
    next => exact nofun
  · rintro ⟨rfl, rfl⟩
    rfl

/-! ### Decode and encode -/

/-- `i` is an instruction of this site that these bytes encode. -/
def Encodes (site : KeySite) (bytes : List Byte) (i : Instr) : Prop :=
  i.wellFormed = true ∧ i.site = site ∧ encode i = bytes

/-- A command word is the encoding of what it decodes to; BADCMD keeps the word (30_encoding.md R101, R102). -/
theorem decodeCommand_encodes (v : Word) : Encodes .command (littleBytes 4 v.toNat) (decodeCommand v) := by
  refine ⟨decodeCommand_wellFormed v, ?_⟩
  unfold decodeCommand
  split
  next hv =>
    subst hv
    exact ⟨rfl, rfl⟩
  split
  next hv =>
    subst hv
    exact ⟨rfl, rfl⟩
  split
  next hv =>
    subst hv
    exact ⟨rfl, rfl⟩
  next => exact ⟨rfl, rfl⟩

theorem decodeEtherType_encodes {v : Half} {i : Instr} (h : decodeEtherType v = .ok i) :
    Encodes .etherType (bigBytes 2 v.toNat) i := by
  rcases decodeEtherType_eq_ok.mp h with ⟨rfl, rfl⟩ | ⟨rfl, rfl⟩ <;> exact ⟨rfl, rfl, rfl⟩

theorem decodeArpHeader_encodes {v : BitVec 64} {i : Instr} (h : decodeArpHeader v = .ok i) :
    Encodes .arpHeader (bigBytes 8 v.toNat) i := by
  obtain ⟨rfl, rfl⟩ := decodeArpHeader_eq_ok.mp h
  exact ⟨rfl, rfl, rfl⟩

theorem decodeIpProtocol_encodes {v : Byte} {i : Instr} (h : decodeIpProtocol v = .ok i) :
    Encodes .ipProtocol (bigBytes 1 v.toNat) i := by
  rcases decodeIpProtocol_eq_ok.mp h with ⟨rfl, rfl⟩ | ⟨rfl, rfl⟩ <;> exact ⟨rfl, rfl, rfl⟩

theorem decodeIcmpHeader_encodes {v : Half} {i : Instr} (h : decodeIcmpHeader v = .ok i) :
    Encodes .icmpHeader (bigBytes 2 v.toNat) i := by
  obtain ⟨rfl, rfl⟩ := decodeIcmpHeader_eq_ok.mp h
  exact ⟨rfl, rfl, rfl⟩

/-- What the bytes of a site decode to is encoded by these bytes. -/
theorem decodeAt_encodes {site : KeySite} {bytes : List Byte} {i : Instr} (h : decodeAt site bytes = .ok i) :
    Encodes site bytes i := by
  unfold decodeAt at h
  split at h
  next b0 b1 b2 b3 =>
    obtain rfl := Except.ok.inj h
    simpa only [littleBytes_append_byte, littleBytes_one] using decodeCommand_encodes (b3 ++ b2 ++ b1 ++ b0)
  next b0 b1 => simpa [bigBytes_append_byte] using decodeEtherType_encodes h
  next => simpa [bigBytes_append_byte] using decodeArpHeader_encodes h
  next => simpa using decodeIpProtocol_encodes h
  next => simpa [bigBytes_append_byte] using decodeIcmpHeader_encodes h
  next => exact nomatch h

/-- The encoding of a well-formed instruction decodes to it at its site. -/
theorem decodeAt_encode {i : Instr} (h : i.wellFormed = true) : decodeAt i.site (encode i) = .ok i := by
  cases i with
  | badcmd value =>
    simp only [Instr.wellFormed, Bool.and_eq_true, decide_eq_true_eq] at h
    obtain ⟨⟨hprocess, hcsum⟩, hconstruct⟩ := h
    exact (decodeAt_command value).trans (congrArg Except.ok (decodeCommand_badcmd hprocess hcsum hconstruct))
  | _ => rfl

end Sys2Proof
end

section
/-! SUPPORT. The frame keys as the buffer's fields, and the stage that each key selects. -/

namespace Sys2Proof.Machine

/-! ### A field from its parts -/

theorem append_eq_append_iff {n m : Nat} {x x' : BitVec n} {y y' : BitVec m} :
    x ++ y = x' ++ y' ↔ x = x' ∧ y = y' := by
  constructor
  · intro h
    constructor
    · simpa only [BitVec.extractLsb'_append_eq_left] using congrArg (·.extractLsb' m n) h
    · simpa only [BitVec.extractLsb'_append_eq_right] using congrArg (·.extractLsb' 0 m) h
  · rintro ⟨rfl, rfl⟩
    rfl

theorem be16_eq_append_iff (m : Memory) (a : Nat) (hi lo : Byte) :
    m.be16 a = hi ++ lo ↔ m.byte a = hi ∧ m.byte (a + 1) = lo := append_eq_append_iff

/-- The ARP key field by field (30_encoding.md R118): HTYPE, PTYPE, HLEN, PLEN and OP. -/
theorem be64_eq_keyArpRequest (m : Memory) (a : Nat) : m.be64 a = keyArpRequest ↔
    (m.be16 a = 1#16 ∧ m.be16 (a + 2) = 0x0800#16) ∧
      (m.byte (a + 4) = 6#8 ∧ m.byte (a + 5) = 4#8) ∧ m.be16 (a + 6) = 1#16 := by
  have hkey : keyArpRequest = (1#16 ++ 0x0800#16) ++ ((6#8 ++ 4#8) ++ 1#16) := by decide
  rw [hkey, Memory.be64, append_eq_append_iff, Memory.be32, append_eq_append_iff, Memory.be32, append_eq_append_iff,
    be16_eq_append_iff]

/-- The ICMP key field by field (30_encoding.md R117): type and code. -/
theorem be16_eq_keyIcmpEcho (m : Memory) (a : Nat) :
    m.be16 a = keyIcmpEcho ↔ m.byte a = 8#8 ∧ m.byte (a + 1) = 0#8 := by
  have hkey : keyIcmpEcho = 8#8 ++ 0#8 := by decide
  rw [hkey, be16_eq_append_iff]

/-! ### The stage a key selects -/

section

variable {s : State}

theorem processCommand_of_ipv4 (h : s.buf.be16 14 = keyEthIpv4) :
    processCommand s = ethEntry s (ipv4Dispatch s) := by
  rw [processCommand, ethDispatch, if_pos h, ethEntry]

theorem processCommand_of_arp (h : s.buf.be16 14 = keyEthArp) : processCommand s = ethEntry s (arpRespond s) := by
  have hnot : s.buf.be16 14 ≠ keyEthIpv4 := by rw [h]; decide
  rw [processCommand, ethDispatch, if_neg hnot, if_pos h, ethEntry]

/-- The ARP key passes every check of 42_reply.md R201. -/
theorem arpValidate_of_key (h : s.buf.be64 16 = keyArpRequest) (c : Completion) : arpValidate s c = c := by
  obtain ⟨⟨htype, ptype⟩, ⟨hlen, plen⟩, op⟩ := (be64_eq_keyArpRequest s.buf 16).mp h
  simp only [arpValidate, htype, ptype, hlen, plen, op, ne_eq, not_true_eq_false, if_false]

/-- Behind the gate the IPv4 dispatcher goes on with the protocol number (41_dispatch.md R167). -/
theorem ethEntry_ipv4Dispatch (h : checksum s.buf 16 (2 * ihl s.buf) = 0#16) :
    ethEntry s (ipv4Dispatch s) = ipv4Entry s (protoRoute s) := by
  rw [ipv4Dispatch, if_neg (not_not.mpr h), ipv4Entry]

theorem protoRoute_of_icmp (h : s.buf.byte 25 = keyIpv4Icmp) : protoRoute s = icmpRespond s := by
  rw [protoRoute, if_pos h]

theorem protoRoute_of_udp (h : s.buf.byte 25 = keyIpv4Udp) : protoRoute s = udpInspect s := by
  have hnot : s.buf.byte 25 ≠ keyIpv4Icmp := by rw [h]; decide
  rw [protoRoute, if_neg hnot, if_pos h]

/-- The ICMP key passes the checks of 42_reply.md R211 and R212. -/
theorem icmpRespond_of_key (h : s.buf.be16 (l4 s.buf) = keyIcmpEcho) :
    icmpRespond s = need s (22 + 4 * ihl s.buf) (icmpEchoReply s) := by
  obtain ⟨type, code⟩ := (be16_eq_keyIcmpEcho s.buf (l4 s.buf)).mp h
  rw [icmpRespond, if_neg (not_not.mpr type), if_neg (not_not.mpr code)]

end

/-! ### The row a key selects, run as an instruction -/

theorem exec_process (s : State) : exec .process s = .next (complete s (processCommand s)) := rfl

theorem exec_ethIpv4 (s : State) : exec .ethIpv4 s = .next (complete s (ethEntry s (ipv4Dispatch s))) := rfl

theorem exec_ethArp (s : State) : exec .ethArp s = .next (complete s (ethEntry s (arpRespond s))) := rfl

theorem exec_arpRequest (s : State) :
    exec .arpRequest s = .next (complete s (ethEntry s (need s 42 (arpReply s)))) := rfl

theorem exec_ipv4Icmp (s : State) : exec .ipv4Icmp s = .next (complete s (ipv4Entry s (icmpRespond s))) := rfl

theorem exec_ipv4Udp (s : State) : exec .ipv4Udp s = .next (complete s (ipv4Entry s (udpInspect s))) := rfl

theorem exec_icmpEchoRequest (s : State) : exec .icmpEchoRequest s =
    .next (complete s (ipv4Entry s (need s (22 + 4 * ihl s.buf) (icmpEchoReply s)))) := rfl

theorem exec_badcmd (v : Word) (s : State) :
    exec (.badcmd v) s = .next (complete s (raise s .eBadcmd v 0#32)) := rfl

end Sys2Proof.Machine

/-! ### A command that ends in an error -/

namespace Sys2Proof.Claims

open Sys2Proof.Machine

/-- `raise` reports its code and its two words and touches nothing else (60_exceptions.md R234). -/
theorem failed_raise (s : State) (code : ResultCode) (info aux : Word) :
    Failed s (complete s (raise s code info aux)) code info.toNat aux.toNat :=
  ⟨⟨rfl, rfl, rfl, rfl, isError_iff code, rfl, rfl, rfl⟩, complete_hostSideKept s _, fun _ => rfl, rfl, rfl⟩

end Sys2Proof.Claims
end

section
/-! The statements of 30_encoding.md. -/

namespace Sys2Proof.Proofs

open Sys2Proof Sys2Proof.Machine Sys2Proof.Claims

/-- Settles O1: the decoder answers only what the bytes encode, and every encoding decodes. -/
theorem decodeInvertsEncode : Obligations.DecodeInvertsEncode := by
  intro site bytes i
  constructor
  · exact decodeAt_encodes
  · rintro ⟨hwf, rfl, rfl⟩
    exact decodeAt_encode hwf

/-- Settles O6: the key decides the checks of the stage that reads it, and what is left is the selected row. -/
theorem frameKeyRunsItsRow : Obligations.FrameKeyRunsItsRow := by
  intro s i
  refine ⟨?etherType, ?arpHeader, ?ipProtocol, ?icmpHeader⟩
  case etherType =>
    intro h
    rcases decodeEtherType_eq_ok.mp h with ⟨hkey, rfl⟩ | ⟨hkey, rfl⟩
    · rw [exec_process, processCommand_of_ipv4 hkey, exec_ethIpv4]
    · rw [exec_process, processCommand_of_arp hkey, exec_ethArp]
  case arpHeader =>
    intro h
    obtain ⟨hkey, rfl⟩ := decodeArpHeader_eq_ok.mp h
    rw [exec_ethArp, arpRespond, arpValidate_of_key hkey, exec_arpRequest]
  case ipProtocol =>
    intro hgate h
    rw [exec_ethIpv4, ethEntry_ipv4Dispatch hgate]
    rcases decodeIpProtocol_eq_ok.mp h with ⟨hkey, rfl⟩ | ⟨hkey, rfl⟩
    · rw [protoRoute_of_icmp hkey, exec_ipv4Icmp]
    · rw [protoRoute_of_udp hkey, exec_ipv4Udp]
  case icmpHeader =>
    intro h
    obtain ⟨hkey, rfl⟩ := decodeIcmpHeader_eq_ok.mp h
    rw [exec_ipv4Icmp, icmpRespond_of_key hkey, exec_icmpEchoRequest]

/-- Settles O2: the bytes of each word are the encoding of its row, and encodings decode. -/
theorem writtenOutWordsDecode : Obligations.WrittenOutWordsDecode :=
  ⟨decodeAt_encode (i := .process) rfl, decodeAt_encode (i := .csum) rfl,
    decodeAt_encode (i := .badcmd 0x00000011#32) rfl, decodeAt_encode (i := .ethArp) rfl,
    decodeAt_encode (i := .arpRequest) rfl, decodeAt_encode (i := .ipv4Udp) rfl,
    decodeAt_encode (i := .icmpEchoRequest) rfl,
    congrArg Except.toOption (decodeAt_encode (i := .ethIpv4) rfl)⟩

/-- Settles O13: no other word is a command, and BADCMD raises E_BADCMD with the word it carries. -/
theorem otherCommandWordsEndInBadcmd : Obligations.OtherCommandWordsEndInBadcmd := by
  intro s v hprocess hcsum hconstruct
  exact ⟨decodeCommand_badcmd hprocess hcsum hconstruct, _, exec_badcmd v s, failed_raise s .eBadcmd v 0#32⟩

end Sys2Proof.Proofs
end

section
/-! SUPPORT. The exact sum of a span, the accumulator and the folded value as functions of it, and what a write of one
word does to it. -/

namespace Sys2Proof.Machine

open Sys2Proof.Claims

/-! ### The exact sum -/

/-- The exact sum is the sum of the span's words, so their order does not matter (40_checksum.md R144). -/
theorem wordSum_eq_sum (m : Memory) (a n : Nat) : wordSum m a n = ((spanWords m a n).map BitVec.toNat).sum := by
  induction n with
  | zero => rfl
  | succ n ih => simp [wordSum, ih, spanWords, List.range_succ]

theorem wordSum_eq_zero_iff (m : Memory) (a n : Nat) :
    wordSum m a n = 0 ↔ ∀ k, k < n → m.be16 (a + 2 * k) = 0#16 := by
  simp [wordSum_eq_sum, spanWords, List.sum_eq_zero_iff, BitVec.toNat_eq]

theorem wordSum_le (m : Memory) (a n : Nat) : wordSum m a n ≤ n * 65535 := by
  induction n with
  | zero => exact Nat.zero_le 0
  | succ n ih =>
    have hword := (m.be16 (a + 2 * n)).isLt
    rw [wordSum]
    omega

/-- A field behind the span is not summed. -/
theorem wordSum_setBE16_behind (m : Memory) (a n f : Nat) (v : Half) (h : a + 2 * n ≤ f) :
    wordSum (m.setBE16 f v) a n = wordSum m a n := by
  induction n with
  | zero => rfl
  | succ n ih => rw [wordSum, wordSum, ih (by omega), be16_setBE16_other m f v _ (.inl (by omega))]

/-- A write of one word of the span takes the old word out of the sum and puts the new one in. -/
theorem wordSum_setBE16_word (m : Memory) (a n k : Nat) (v : Half) (h : k < n) :
    wordSum (m.setBE16 (a + 2 * k) v) a n + (m.be16 (a + 2 * k)).toNat = wordSum m a n + v.toNat := by
  induction n with
  | zero => exact absurd h (Nat.not_lt_zero k)
  | succ n ih =>
    rw [wordSum, wordSum]
    rcases Nat.lt_succ_iff_lt_or_eq.mp h with hk | rfl
    · have hrest := ih hk
      rw [be16_setBE16_other m _ v _ (.inr (by omega))]
      omega
    · rw [be16_setBE16_same, wordSum_setBE16_behind m a k _ v le_rfl]
      omega

/-! ### The accumulator and the fold loop -/

theorem toNat_zeroExtend_half (v : Half) : (v.zeroExtend 32).toNat = v.toNat :=
  BitVec.toNat_setWidth_of_le (by decide)

/-- The accumulator is the exact sum as long as 32 bits hold it. -/
theorem sumWords_toNat_mod (m : Memory) (a n : Nat) : (sumWords m a n).toNat = wordSum m a n % 2 ^ 32 := by
  induction n with
  | zero => rfl
  | succ n ih =>
    have hword := (m.be16 (a + 2 * n)).isLt
    rw [sumWords, wordSum, BitVec.toNat_add, ih, toNat_zeroExtend_half]
    omega

theorem sumWords_toNat (m : Memory) (a n : Nat) (hn : n ≤ 65535) : (sumWords m a n).toNat = wordSum m a n := by
  have hle := wordSum_le m a n
  rw [sumWords_toNat_mod]
  omega

theorem foldOnce_toNat_le (acc : Word) : (foldOnce acc).toNat ≤ 0x1FFFE := by
  have hacc := acc.isLt
  rw [foldOnce_toNat]
  omega

theorem foldOnce_foldOnce_toNat_le (acc : Word) : (foldOnce (foldOnce acc)).toNat ≤ 0xFFFF := by
  have hfirst := foldOnce_toNat_le acc
  rw [foldOnce_toNat (foldOnce acc)]
  omega

theorem foldCarries_of_small (k : Nat) {acc : Word} (h : acc.toNat ≤ 0xFFFF) : foldCarries k acc = acc := by
  cases k with
  | zero => rfl
  | succ k => rw [foldCarries, if_pos ((high_zero_iff acc).mpr (by omega))]

/-- The fold loop has ended after two passes (40_checksum.md R142). -/
theorem foldCarries_add_two (k : Nat) (acc : Word) : foldCarries (k + 2) acc = foldCarries 2 acc := by
  have hsmall := foldOnce_foldOnce_toNat_le acc
  simp only [foldCarries, foldCarries_of_small k hsmall]

theorem foldCarries_two_toNat_le (acc : Word) : (foldCarries 2 acc).toNat ≤ 0xFFFF := by
  rw [foldCarries_two_toNat]
  split <;> omega

/-! ### The word counts that occur -/

theorem ihl_le (m : Memory) : ihl m ≤ 15 := by
  rw [ihl]
  omega

theorem icmpWords_le (m : Memory) : icmpWords m ≤ 32767 := by
  have hlength : totalLength m < 65536 := (m.be16 18).isLt
  rw [icmpWords]
  omega

/-! ### The closed form -/

section

variable (m : Memory) (a : Nat) {n : Nat} (hn : n ≤ 65535)
include hn

/-- The folded value of a span with exact sum `S` (40_checksum.md R143). -/
theorem folded_toNat : (foldCarries 2 (sumWords m a n)).toNat =
    if wordSum m a n = 0 then 0 else 1 + (wordSum m a n - 1) % 0xFFFF := by
  rw [foldCarries_two_toNat, sumWords_toNat m a n hn]

theorem checksum_eq_ones_iff : checksum m a n = 0xFFFF#16 ↔ wordSum m a n = 0 := by
  rw [← BitVec.toNat_inj, checksum_toNat, folded_toNat m a hn, BitVec.toNat_ofNat]
  split <;> omega

theorem checksum_eq_zero_iff : checksum m a n = 0#16 ↔ 0 < wordSum m a n ∧ wordSum m a n % 0xFFFF = 0 := by
  rw [← BitVec.toNat_inj, checksum_toNat, folded_toNat m a hn, BitVec.toNat_ofNat]
  split <;> omega

/-- The checksum makes up for the sum: with it added, the sum is a positive multiple of 0xFFFF (40_checksum.md
R147). -/
theorem wordSum_add_checksum :
    0 < wordSum m a n + (checksum m a n).toNat ∧ (wordSum m a n + (checksum m a n).toNat) % 0xFFFF = 0 := by
  rw [checksum_toNat, folded_toNat m a hn]
  split <;> omega

end

/-- The exact sum decides the checksum, also where it is too large for the accumulator. -/
theorem checksum_eq_of_wordSum_eq {m m' : Memory} {a a' n n' : Nat} (h : wordSum m a n = wordSum m' a' n') :
    checksum m a n = checksum m' a' n' := by
  have hacc : sumWords m a n = sumWords m' a' n' :=
    BitVec.eq_of_toNat_eq (by rw [sumWords_toNat_mod, sumWords_toNat_mod, h])
  rw [checksum, checksum, hacc]

/-- Construction of a word of the span adds the checksum to the sum with that word zeroed (40_checksum.md R146). -/
theorem wordSum_construct_word (m : Memory) (a n k : Nat) (h : k < n) :
    wordSum (construct m a n (a + 2 * k)) a n = wordSum (m.setBE16 (a + 2 * k) 0#16) a n +
      (checksum (m.setBE16 (a + 2 * k) 0#16) a n).toNat := by
  have hzeroed : ((m.setBE16 (a + 2 * k) 0#16).be16 (a + 2 * k)).toNat = 0 := by rw [be16_setBE16_same]; rfl
  rw [construct, ← wordSum_setBE16_word (m.setBE16 (a + 2 * k) 0#16) a n k _ h, hzeroed, Nat.add_zero]

end Sys2Proof.Machine
end

section
/-! SUPPORT. The ends of CSUM and CSUM_CONSTRUCT, each from the range check that leads to it. -/

namespace Sys2Proof.Machine

theorem exec_csum (s : State) : exec .csum s = .next (complete s (csumCommand s)) := rfl

theorem exec_csumConstruct (s : State) : exec .csumConstruct s = .next (complete s (csumConstructCommand s)) := rfl

section

variable {s : State}

theorem csumCommand_of_le (h : s.latched.csumOff.toNat + 2 * s.latched.csumN.toNat ≤ s.params.bufSize) :
    csumCommand s = { finish s.buf .okCsum 0#32 0#32 with
      csum := some (checksum s.buf s.latched.csumOff.toNat s.latched.csumN.toNat) } :=
  if_neg (Nat.not_lt.mpr h)

theorem csumCommand_of_lt (h : s.params.bufSize < s.latched.csumOff.toNat + 2 * s.latched.csumN.toNat) :
    csumCommand s =
      raise s .eRange (s.latched.csumOff.zeroExtend 32) (s.latched.csumN.zeroExtend 32) :=
  if_pos h

theorem csumConstructCommand_of_range
    (h : s.params.bufSize < s.latched.csumOff.toNat + 2 * s.latched.csumN.toNat) :
    csumConstructCommand s =
      raise s .eRange (s.latched.csumOff.zeroExtend 32) (s.latched.csumN.zeroExtend 32) :=
  if_pos h

theorem csumConstructCommand_of_fieldRange
    (h : ¬ s.params.bufSize < s.latched.csumOff.toNat + 2 * s.latched.csumN.toNat)
    (hf : s.params.bufSize < s.latched.csumField.toNat + 2) :
    csumConstructCommand s = raise s .eFieldRange (s.latched.csumField.zeroExtend 32) 0#32 :=
  (if_neg h).trans (if_pos hf)

theorem csumConstructCommand_of_inside
    (h : ¬ s.params.bufSize < s.latched.csumOff.toNat + 2 * s.latched.csumN.toNat)
    (hf : ¬ s.params.bufSize < s.latched.csumField.toNat + 2) :
    csumConstructCommand s =
      { finish (construct s.buf s.latched.csumOff.toNat s.latched.csumN.toNat s.latched.csumField.toNat)
          .okCsumConstruct 0#32 0#32 with
        csum := some (checksum (s.buf.setBE16 s.latched.csumField.toNat 0#16) s.latched.csumOff.toNat
          s.latched.csumN.toNat) } :=
  (if_neg h).trans (if_neg hf)

end

end Sys2Proof.Machine

namespace Sys2Proof.Claims

open Sys2Proof.Machine

/-- A completion that transmits nothing is one by `finish`, whatever buffer and results it leaves (00_scope.md
R16). -/
theorem finished_complete (s : State) (c : Completion) (htx : c.tx = false) (hlen : c.txLen = 0#17) :
    Finished (complete s c) c.code c.info.toNat c.aux.toNat :=
  ⟨rfl, rfl, htx, rfl, isError_iff c.code, rfl, rfl, hlen⟩

/-- An error that reports a 16-bit operand reports its number. -/
theorem failed_raise_half (s : State) (code : ResultCode) (info : Half) (aux : Word) :
    Failed s (complete s (raise s code (info.zeroExtend 32) aux)) code info.toNat aux.toNat := by
  simpa only [toNat_zeroExtend_half] using failed_raise s code (info.zeroExtend 32) aux

/-- E_RANGE reports offset and count (40_checksum.md R149, R150). -/
theorem failed_range (s : State) :
    Failed s (complete s (raise s .eRange (s.latched.csumOff.zeroExtend 32) (s.latched.csumN.zeroExtend 32))) .eRange
      s.latched.csumOff.toNat s.latched.csumN.toNat := by
  simpa only [toNat_zeroExtend_half] using
    failed_raise_half s .eRange s.latched.csumOff (s.latched.csumN.zeroExtend 32)

end Sys2Proof.Claims
end

section
/-! The statements of 40_checksum.md. -/

namespace Sys2Proof.Proofs

open Sys2Proof Sys2Proof.Machine Sys2Proof.Claims

/-- Settles O7: the bound of the exact sum, then the bound of each pass of the fold loop. -/
theorem accumulatorNeverOverflows : Obligations.AccumulatorNeverOverflows := by
  refine ⟨fun m a n hn => ⟨sumWords_toNat m a n hn, ?sum⟩, fun s => ⟨?csum, ?ipv4, icmpWords_le s.buf⟩,
    fun acc k => ⟨foldOnce_toNat_le acc, foldOnce_foldOnce_toNat_le acc, foldCarries_add_two k acc,
      foldCarries_two_toNat_le acc⟩⟩
  case sum =>
    have hle := wordSum_le m a n
    omega
  case csum =>
    have hlt := s.latched.csumN.isLt
    omega
  case ipv4 =>
    have hle := ihl_le s.buf
    omega

/-- Settles O8, from the folded value as a function of the exact sum. -/
theorem checksumClosedForm : Obligations.ChecksumClosedForm := by
  intro m a n hn
  have hfolded := folded_toNat m a hn
  refine ⟨_, rfl, ?zero, ?pos, ?congruent, checksum_toNat m a n, ?ones, checksum_eq_zero_iff m a hn⟩
  case zero => exact fun hS => hfolded.trans (if_pos hS)
  case pos =>
    intro hS
    rw [if_neg (by omega)] at hfolded
    omega
  case congruent =>
    rw [hfolded]
    split <;> omega
  case ones => exact (checksum_eq_ones_iff m a hn).trans (wordSum_eq_zero_iff m a n)

/-- Settles O9: a permutation keeps the sum, and the sum decides the checksum. -/
theorem checksumIgnoresWordOrder : Obligations.ChecksumIgnoresWordOrder := by
  intro m m' a a' n n' hperm
  apply checksum_eq_of_wordSum_eq
  rw [wordSum_eq_sum, wordSum_eq_sum]
  exact (hperm.map BitVec.toNat).sum_eq

/-- Settles O10, as in the proof of 40_checksum.md R147: the checksum joins the sum with the field zeroed, and makes it
a positive multiple of 0xFFFF. -/
theorem constructThenValidate : Obligations.ConstructThenValidate := by
  intro m a n f _ hn haf hfn heven
  obtain ⟨k, rfl⟩ : ∃ k, f = a + 2 * k := ⟨(f - a) / 2, by omega⟩
  rw [checksum_eq_zero_iff _ a hn, wordSum_construct_word m a n k (by omega)]
  exact wordSum_add_checksum _ a hn

/-- Settles O11: the range check decides between the two ends. -/
theorem csumEnds : Obligations.CsumEnds := by
  intro s
  refine ⟨_, exec_csum s, complete_hostSideKept s _, ?_⟩
  split
  next hin =>
    rw [csumCommand_of_le hin]
    exact ⟨fun _ => rfl, rfl, finished_complete s _ rfl rfl, rfl⟩
  next hout =>
    rw [csumCommand_of_lt (Nat.not_le.mp hout)]
    obtain ⟨hfinished, _, hbytes, hcsum, hinspect⟩ := failed_range s
    exact ⟨hbytes, hinspect, hfinished, hcsum⟩

/-- Settles O12: the two range checks in order, then the construction. -/
theorem csumConstructEnds : Obligations.CsumConstructEnds := by
  intro s
  refine ⟨_, exec_csumConstruct s, complete_hostSideKept s _, ?_⟩
  split
  next hrange =>
    rw [csumConstructCommand_of_range hrange]
    obtain ⟨hfinished, _, hbytes, hcsum, hinspect⟩ := failed_range s
    exact ⟨hinspect, hfinished, hbytes, hcsum⟩
  split
  next hrange hfield =>
    rw [csumConstructCommand_of_fieldRange hrange hfield]
    obtain ⟨hfinished, _, hbytes, hcsum, hinspect⟩ := failed_raise_half s .eFieldRange s.latched.csumField 0#32
    exact ⟨hinspect, hfinished, hbytes, hcsum⟩
  next hrange hfield =>
    rw [csumConstructCommand_of_inside hrange hfield]
    exact ⟨rfl, finished_complete s _ rfl rfl, rfl, be16_construct_same s.buf _ _ _,
      fun b hb hb' => byte_construct_outside s.buf _ _ _ b hb hb'⟩

end Sys2Proof.Proofs
end

section
/-! SUPPORT. The dispatchers of 41_dispatch.md check by check, and the inspector's registers field by field. -/

namespace Sys2Proof.Machine

/-! ### The received-length checks -/

/-- PROCESS and each of its rows begin with the check of the received length (41_dispatch.md R160, R161). -/
theorem exec_processRow {i : Instr} (h : Claims.IsProcessRow i) (s : State) :
    ∃ next, exec i s = .next (complete s (rxLenGate s next)) := by
  rcases h with rfl | rfl | rfl | rfl | rfl | rfl | rfl
  · exact ⟨_, exec_process s⟩
  · exact ⟨_, exec_ethIpv4 s⟩
  · exact ⟨_, exec_ethArp s⟩
  · exact ⟨_, exec_arpRequest s⟩
  · exact ⟨_, exec_ipv4Icmp s⟩
  · exact ⟨_, exec_ipv4Udp s⟩
  · exact ⟨_, exec_icmpEchoRequest s⟩

section

variable {s : State}

theorem rxLenGate_of_lt (h : s.params.bufSize - 2 < s.latched.rxLen.toNat) (c : Completion) :
    rxLenGate s c =
      raise s .eRxlen (s.latched.rxLen.zeroExtend 32) (BitVec.ofNat 32 (s.params.bufSize - 2)) := if_pos h

theorem processCommand_of_fits (hfits : s.latched.rxLen.toNat ≤ s.params.bufSize - 2) :
    processCommand s = ethDispatch s := rxLenGate_of_le s _ hfits

theorem ethEntry_of_received (hfits : s.latched.rxLen.toNat ≤ s.params.bufSize - 2)
    (h14 : 14 ≤ s.latched.rxLen.toNat) (c : Completion) : ethEntry s c = c := by
  rw [ethEntry, rxLenGate_of_le s _ hfits, need_of_le s 14 c h14]

theorem ipv4Entry_of_received (hfits : s.latched.rxLen.toNat ≤ s.params.bufSize - 2)
    (h34 : 34 ≤ s.latched.rxLen.toNat) (hheader : 14 + 4 * ihl s.buf ≤ s.latched.rxLen.toNat) (c : Completion) :
    ipv4Entry s c = c := by
  rw [ipv4Entry, ethEntry_of_received hfits (by omega), need_of_le s 34 _ h34, need_of_le s _ c hheader]

/-! ### The dispatchers -/

theorem ethDispatch_of_other (h14 : 14 ≤ s.latched.rxLen.toNat) (hipv4 : s.buf.be16 14 ≠ keyEthIpv4)
    (harp : s.buf.be16 14 ≠ keyEthArp) :
    ethDispatch s = raise s .eEthertype ((s.buf.be16 14).zeroExtend 32) 0#32 := by
  rw [ethDispatch, need_of_le s 14 _ h14, if_neg hipv4, if_neg harp]

/-- Before the checksum gate the IPv4 dispatcher asks for the fixed header, then for the whole one (41_dispatch.md
R164). -/
theorem ipv4Dispatch_of_header (h34 : 34 ≤ s.latched.rxLen.toNat)
    (hheader : s.latched.rxLen.toNat < 14 + 4 * ihl s.buf) :
    ipv4Dispatch s =
      raise s .eTrunc (s.latched.rxLen.zeroExtend 32) (BitVec.ofNat 32 (14 + 4 * ihl s.buf)) := by
  rw [ipv4Dispatch, need_of_le s 34 _ h34, need_of_lt s _ _ hheader]

section

variable (h34 : 34 ≤ s.latched.rxLen.toNat) (hheader : 14 + 4 * ihl s.buf ≤ s.latched.rxLen.toNat)
include h34 hheader

theorem ipv4Dispatch_of_gateFails (hgate : checksum s.buf 16 (2 * ihl s.buf) ≠ 0#16) :
    ipv4Dispatch s = raise s .eIpCsum ((s.buf.be16 26).zeroExtend 32)
      ((checksum s.buf 16 (2 * ihl s.buf)).zeroExtend 32) := by
  rw [ipv4Dispatch, need_of_le s 34 _ h34, need_of_le s _ _ hheader, if_pos hgate]

theorem ipv4Dispatch_of_gatePasses (hgate : checksum s.buf 16 (2 * ihl s.buf) = 0#16) :
    ipv4Dispatch s = protoRoute s := by
  rw [ipv4Dispatch, need_of_le s 34 _ h34, need_of_le s _ _ hheader, if_neg (not_not.mpr hgate)]

end

theorem protoRoute_of_other (hicmp : s.buf.byte 25 ≠ keyIpv4Icmp) (hudp : s.buf.byte 25 ≠ keyIpv4Udp) :
    protoRoute s = raise s .eIpProto ((s.buf.byte 25).zeroExtend 32) 0#32 := by
  rw [protoRoute, if_neg hicmp, if_neg hudp]

/-! ### The UDP inspector -/

section

variable (hudp : 22 + 4 * ihl s.buf ≤ s.latched.rxLen.toNat)
include hudp

theorem udpInspect_of_short (hshort : udpLength s.buf < 34) :
    udpInspect s = raise s .eUdpLen (BitVec.ofNat 32 (udpLength s.buf)) 34#32 := by
  rw [udpInspect, need_of_le s _ _ hudp, if_pos hshort]

theorem udpInspect_of_length (hlen : 34 ≤ udpLength s.buf) :
    udpInspect s = need s (14 + 4 * ihl s.buf + udpLength s.buf)
      { finish s.buf .okUdpInspected 0#32 0#32 with inspect := some (udpFields s.buf) } := by
  rw [udpInspect, need_of_le s _ _ hudp, if_neg (Nat.not_lt.mpr hlen)]

end

end

theorem udpLength_lt (m : Memory) : udpLength m < 65536 := (m.be16 (l4 m + 4)).isLt

theorem extractLsb'_be64_high (m : Memory) (a : Nat) : (m.be64 a).extractLsb' 32 32 = m.be32 a :=
  BitVec.extractLsb'_append_eq_left

theorem extractLsb'_be64_low (m : Memory) (a : Nat) : (m.be64 a).extractLsb' 0 32 = m.be32 (a + 4) :=
  BitVec.extractLsb'_append_eq_right

/-- The payload offset fits its register for every header length (30_encoding.md R110). -/
theorem udpFields_payloadOff_toNat (m : Memory) : (udpFields m).payloadOff.toNat = l4 m + 34 := by
  have hle := ihl_le m
  simp only [udpFields, l4, BitVec.toNat_ofNat]
  omega

end Sys2Proof.Machine

/-! ### The row that runs, and its errors -/

namespace Sys2Proof.Claims

open Sys2Proof.Machine

theorem toNat_zeroExtend_byte (b : Byte) : (b.zeroExtend 32).toNat = b.toNat :=
  BitVec.toNat_setWidth_of_le (by decide)

/-- An error that reports a byte of the frame reports its number. -/
theorem failed_raise_byte (s : State) (code : ResultCode) (info : Byte) (aux : Word) :
    Failed s (complete s (raise s code (info.zeroExtend 32) aux)) code info.toNat aux.toNat := by
  simpa only [toNat_zeroExtend_byte] using failed_raise s code (info.zeroExtend 32) aux

/-- E_IP_CSUM and E_ICMP_CSUM report the stored field and the computed value (41_dispatch.md R167; 42_reply.md R215). -/
theorem failed_raise_halves (s : State) (code : ResultCode) (info aux : Half) :
    Failed s (complete s (raise s code (info.zeroExtend 32) (aux.zeroExtend 32))) code info.toNat aux.toNat := by
  simpa only [toNat_zeroExtend_half] using failed_raise_half s code info (aux.zeroExtend 32)

/-- An error that reports two numbers of 32 bits. -/
theorem failed_raise_nat (s : State) (code : ResultCode) {info aux : Nat} (hi : info < 2 ^ 32) (ha : aux < 2 ^ 32) :
    Failed s (complete s (raise s code (BitVec.ofNat 32 info) (BitVec.ofNat 32 aux))) code info aux := by
  simpa only [BitVec.toNat_ofNat, Nat.mod_eq_of_lt hi, Nat.mod_eq_of_lt ha] using
    failed_raise s code (BitVec.ofNat 32 info) (BitVec.ofNat 32 aux)

/-- E_RXLEN and E_TRUNC report the received length and the one that was allowed or needed (41_dispatch.md R161). -/
theorem failed_length (s : State) (code : ResultCode) {k : Nat} (hk : k < 2 ^ 32) :
    Failed s (complete s (raise s code (s.latched.rxLen.zeroExtend 32) (BitVec.ofNat 32 k))) code (rx s) k := by
  simpa only [rx, BitVec.toNat_ofNat, Nat.mod_eq_of_lt hk] using
    failed_raise_half s code s.latched.rxLen (BitVec.ofNat 32 k)

/-- A length that was not received ends the command in E_TRUNC (41_dispatch.md R161). -/
theorem failed_need (s : State) {k : Nat} (c : Completion) (hk : k < 2 ^ 32) (h : rx s < k) :
    Failed s (complete s (need s k c)) .eTrunc (rx s) k := by
  rw [need_of_lt s k c h]
  exact failed_length s .eTrunc hk

section

variable {i : Instr} {s : State}

/-- Wherever the IPv4 dispatcher runs, the command is ETH_IPV4 (41_dispatch.md R162). -/
theorem RunsIpv4.exec_eq (h : RunsIpv4 i s) : exec i s = exec .ethIpv4 s := by
  rcases h with rfl | ⟨rfl, hkey⟩
  · rfl
  · rw [exec_process, processCommand_of_ipv4 hkey, exec_ethIpv4]

theorem RunsIpv4.exec_dispatch (h : RunsIpv4 i s) (h14 : 14 ≤ rx s) (hfits : rx s ≤ s.params.bufSize - 2) :
    exec i s = .next (complete s (ipv4Dispatch s)) := by
  rw [h.exec_eq, exec_ethIpv4, ethEntry_of_received hfits h14]

/-- Wherever the ICMP responder runs, the command is IPV4_ICMP (41_dispatch.md R168). -/
theorem RunsIcmp.exec_eq (h : RunsIcmp i s) : exec i s = exec .ipv4Icmp s := by
  rcases h with rfl | ⟨hruns, hgate, hkey⟩
  · rfl
  · rw [hruns.exec_eq, exec_ethIpv4, ethEntry_ipv4Dispatch hgate, protoRoute_of_icmp hkey, exec_ipv4Icmp]

/-- Wherever the UDP inspector runs, the command is IPV4_UDP (41_dispatch.md R168). -/
theorem RunsUdp.exec_eq (h : RunsUdp i s) : exec i s = exec .ipv4Udp s := by
  rcases h with rfl | ⟨hruns, hgate, hkey⟩
  · rfl
  · rw [hruns.exec_eq, exec_ethIpv4, ethEntry_ipv4Dispatch hgate, protoRoute_of_udp hkey, exec_ipv4Udp]

theorem RunsUdp.exec_inspect (h : RunsUdp i s) (h34 : 34 ≤ rx s) (hheader : 14 + 4 * ihl s.buf ≤ rx s)
    (hfits : rx s ≤ s.params.bufSize - 2) : exec i s = .next (complete s (udpInspect s)) := by
  rw [h.exec_eq, exec_ipv4Udp, ipv4Entry_of_received hfits h34 hheader]

/-- A valid datagram is inspected by each row on its way. -/
theorem UdpValid.runsUdp (h : UdpValid s) (hi : i = .process ∨ i = .ethIpv4 ∨ i = .ipv4Udp) : RunsUdp i s := by
  rcases hi with rfl | rfl | rfl
  · exact .inr ⟨.inr ⟨rfl, h.gate.etherType⟩, h.gate.checksum, h.protocol⟩
  · exact .inr ⟨.inl rfl, h.gate.checksum, h.protocol⟩
  · exact .inl rfl

theorem UdpValid.udpInspect_eq (h : UdpValid s) : udpInspect s =
    { finish s.buf .okUdpInspected 0#32 0#32 with inspect := some (udpFields s.buf) } := by
  have hlen := h.length
  have hreceived := h.received
  simp only [rx] at hreceived
  rw [udpInspect_of_length (by omega) hlen, need_of_le s _ _ hreceived]

end

end Sys2Proof.Claims
end

section
/-! SUPPORT. Two states whose frames agree from the EtherType to the frame's end: every check of PROCESS reads the same
fields in both, so each stage ends in the same report. -/

namespace Sys2Proof.Machine

/-! ### The fields of frames that agree -/

/-- The parameters, the latched length and flag, and the bytes from the EtherType to the frame's end are the same
(41_dispatch.md R161, R163). -/
structure SameFrame (s s' : State) : Prop where
  params : s'.params = s.params
  rxLen : s'.latched.rxLen = s.latched.rxLen
  lmacValid : s'.latched.lmacValid = s.latched.lmacValid
  byte : ∀ a, 14 ≤ a → a < 2 + s.latched.rxLen.toNat → s'.buf.byte a = s.buf.byte a

section

variable {s s' : State} (h : SameFrame s s')
include h

theorem SameFrame.be16 {a : Nat} (hlow : 14 ≤ a) (hhigh : a ≤ s.latched.rxLen.toNat) :
    s'.buf.be16 a = s.buf.be16 a :=
  be16_congr s.buf s'.buf a (h.byte a hlow (by omega)) (h.byte (a + 1) (by omega) (by omega))

theorem SameFrame.be32 {a : Nat} (hlow : 14 ≤ a) (hhigh : a + 2 ≤ s.latched.rxLen.toNat) :
    s'.buf.be32 a = s.buf.be32 a := by
  rw [Memory.be32, Memory.be32, h.be16 hlow (by omega), h.be16 (by omega) hhigh]

theorem SameFrame.be64 {a : Nat} (hlow : 14 ≤ a) (hhigh : a + 6 ≤ s.latched.rxLen.toNat) :
    s'.buf.be64 a = s.buf.be64 a := by
  rw [Memory.be64, Memory.be64, h.be32 hlow (by omega), h.be32 (by omega) hhigh]

theorem SameFrame.checksum {a n : Nat} (hlow : 14 ≤ a) (hhigh : a + 2 * n ≤ 2 + s.latched.rxLen.toNat) :
    checksum s'.buf a n = checksum s.buf a n :=
  checksum_congr s.buf s'.buf a n fun b hb hb' => h.byte b (by omega) (by omega)

theorem SameFrame.ihl (h34 : 34 ≤ s.latched.rxLen.toNat) : ihl s'.buf = ihl s.buf := by
  rw [Machine.ihl, Machine.ihl, h.byte 16 (by omega) (by omega)]

theorem SameFrame.l4 (h34 : 34 ≤ s.latched.rxLen.toNat) : l4 s'.buf = l4 s.buf := by
  rw [Machine.l4, Machine.l4, h.ihl h34]

theorem SameFrame.totalLength (h34 : 34 ≤ s.latched.rxLen.toNat) : totalLength s'.buf = totalLength s.buf := by
  rw [Machine.totalLength, Machine.totalLength, h.be16 (by omega) (by omega)]

theorem SameFrame.icmpWords (h34 : 34 ≤ s.latched.rxLen.toNat) : icmpWords s'.buf = icmpWords s.buf := by
  rw [Machine.icmpWords, Machine.icmpWords, h.totalLength h34, h.ihl h34]

section

variable (h34 : 34 ≤ s.latched.rxLen.toNat) (hl4 : 22 + 4 * Machine.ihl s.buf ≤ s.latched.rxLen.toNat)
include h34 hl4

theorem SameFrame.udpLength : udpLength s'.buf = udpLength s.buf := by
  rw [Machine.udpLength, Machine.udpLength, h.l4 h34]
  rw [h.be16 (by simp only [Machine.l4]; omega) (by simp only [Machine.l4]; omega)]

/-- A datagram received whole is decoded into the same registers (41_dispatch.md R173, R174). -/
theorem SameFrame.udpFields (hlen : 34 ≤ Machine.udpLength s.buf)
    (hreceived : 14 + 4 * Machine.ihl s.buf + Machine.udpLength s.buf ≤ s.latched.rxLen.toNat) :
    udpFields s'.buf = udpFields s.buf := by
  have hu : Machine.l4 s.buf = 16 + 4 * Machine.ihl s.buf := rfl
  simp only [Machine.udpFields, h.udpLength h34 hl4, h.l4 h34]
  rw [h.be32 (a := 28) (by omega) (by omega), h.be32 (a := 32) (by omega) (by omega),
    h.be16 (a := Machine.l4 s.buf) (by omega) (by omega), h.be16 (a := Machine.l4 s.buf + 2) (by omega) (by omega),
    h.be16 (a := Machine.l4 s.buf + 4) (by omega) (by omega), h.be16 (a := Machine.l4 s.buf + 8) (by omega) (by omega),
    h.be64 (a := Machine.l4 s.buf + 10) (by omega) (by omega),
    h.be64 (a := Machine.l4 s.buf + 18) (by omega) (by omega),
    h.be64 (a := Machine.l4 s.buf + 26) (by omega) (by omega)]

end

end

/-! ### Completions with the same report -/

/-- Two completions report the same: they may differ in the buffer they leave, not in what the host reads of a command
of PROCESS (60_exceptions.md R233). -/
structure SameReport (c c' : Completion) : Prop where
  code : c'.code = c.code
  info : c'.info = c.info
  aux : c'.aux = c.aux
  txLen : c'.txLen = c.txLen
  tx : c'.tx = c.tx
  inspect : c.code = .okUdpInspected → ∃ fields, c.inspect = some fields ∧ c'.inspect = some fields

theorem SameReport.ite {p : Prop} [Decidable p] {c c' d d' : Completion} (hpos : p → SameReport c c')
    (hneg : ¬ p → SameReport d d') : SameReport (if p then c else d) (if p then c' else d') := by
  split
  next hp => exact hpos hp
  next hn => exact hneg hn

theorem sameReport_raise (s s' : State) {code : ResultCode} (info aux : Word) (he : code.isError = true) :
    SameReport (raise s code info aux) (raise s' code info aux) := by
  refine ⟨rfl, rfl, rfl, rfl, rfl, ?_⟩
  rintro rfl
  exact absurd he (by decide)

theorem sameReport_finishTx (m m' : Memory) {code : ResultCode} (len : Nat) (hc : code ≠ .okUdpInspected) :
    SameReport (finishTx m code len) (finishTx m' code len) :=
  ⟨rfl, rfl, rfl, rfl, rfl, fun h => absurd h hc⟩

theorem sameReport_inspected (m m' : Memory) (fields : Inspect) :
    SameReport { finish m .okUdpInspected 0#32 0#32 with inspect := some fields }
      { finish m' .okUdpInspected 0#32 0#32 with inspect := some fields } :=
  ⟨rfl, rfl, rfl, rfl, rfl, fun _ => ⟨fields, rfl, rfl⟩⟩

/-! ### The stages on frames that agree -/

section

variable {s s' : State} (h : SameFrame s s')
include h

/-- Behind a check of the received length the stages may use that the bytes were received. -/
theorem SameFrame.need (k : Nat) {c c' : Completion} (hc : k ≤ s.latched.rxLen.toNat → SameReport c c') :
    SameReport (need s k c) (need s' k c') := by
  rw [Machine.need, Machine.need, h.rxLen]
  exact .ite (fun _ => sameReport_raise s s' _ _ rfl) fun hk => hc (Nat.not_lt.mp hk)

theorem SameFrame.rxLenGate {c c' : Completion} (hc : SameReport c c') :
    SameReport (rxLenGate s c) (rxLenGate s' c') := by
  rw [Machine.rxLenGate, Machine.rxLenGate, h.rxLen, h.params]
  exact .ite (fun _ => sameReport_raise s s' _ _ rfl) fun _ => hc

theorem SameFrame.ethEntry {c c' : Completion} (hc : SameReport c c') :
    SameReport (ethEntry s c) (ethEntry s' c') := h.rxLenGate (h.need 14 fun _ => hc)

/-- The fixed header, then the whole header: the checks before the gate and before an IPv4 row (41_dispatch.md
R164). -/
theorem SameFrame.needHeader {c c' : Completion}
    (hc : 34 ≤ s.latched.rxLen.toNat → 14 + 4 * Machine.ihl s.buf ≤ s.latched.rxLen.toNat → SameReport c c') :
    SameReport (Machine.need s 34 (Machine.need s (14 + 4 * Machine.ihl s.buf) c))
      (Machine.need s' 34 (Machine.need s' (14 + 4 * Machine.ihl s'.buf) c')) := by
  refine h.need 34 fun h34 => ?_
  rw [h.ihl h34]
  exact h.need _ fun hheader => hc h34 hheader

theorem SameFrame.ipv4Entry {c c' : Completion} (hc : 34 ≤ s.latched.rxLen.toNat → SameReport c c') :
    SameReport (ipv4Entry s c) (ipv4Entry s' c') := h.ethEntry (h.needHeader fun h34 _ => hc h34)

theorem SameFrame.arpReply : SameReport (arpReply s) (arpReply s') := by
  rw [Machine.arpReply, Machine.arpReply, h.lmacValid]
  exact .ite (fun _ => sameReport_raise s s' _ _ rfl) fun _ => sameReport_finishTx _ _ _ (by decide)

theorem SameFrame.arpRespond : SameReport (arpRespond s) (arpRespond s') := by
  refine h.need 42 fun h42 => ?_
  rw [arpValidate, arpValidate, h.be16 (a := 22) (by omega) (by omega), h.be16 (a := 16) (by omega) (by omega),
    h.be16 (a := 18) (by omega) (by omega), h.byte 20 (by omega) (by omega), h.byte 21 (by omega) (by omega)]
  refine .ite (fun _ => sameReport_raise s s' _ _ rfl) fun _ => ?_
  refine .ite (fun _ => sameReport_raise s s' _ _ rfl) fun _ => ?_
  refine .ite (fun _ => sameReport_raise s s' _ _ rfl) fun _ => ?_
  refine .ite (fun _ => sameReport_raise s s' _ _ rfl) fun _ => ?_
  exact .ite (fun _ => sameReport_raise s s' _ _ rfl) fun _ => h.arpReply

section

variable (h34 : 34 ≤ s.latched.rxLen.toNat)
include h34

theorem SameFrame.icmpEchoReply (hl4 : 22 + 4 * Machine.ihl s.buf ≤ s.latched.rxLen.toNat) :
    SameReport (icmpEchoReply s) (icmpEchoReply s') := by
  have hu : Machine.l4 s.buf = 16 + 4 * Machine.ihl s.buf := rfl
  simp only [Machine.icmpEchoReply, h.ihl h34, h.l4 h34, h.totalLength h34, h.icmpWords h34]
  refine .ite (fun _ => sameReport_raise s s' _ _ rfl) fun hlen => h.need _ fun hreceived => ?_
  have hspan : Machine.l4 s.buf + 2 * Machine.icmpWords s.buf ≤ 2 + s.latched.rxLen.toNat := by
    simp only [Machine.icmpWords]
    omega
  rw [h.checksum (by omega) hspan, h.be16 (a := Machine.l4 s.buf + 2) (by omega) (by omega), h.lmacValid]
  refine .ite (fun _ => sameReport_raise s s' _ _ rfl) fun _ => ?_
  exact .ite (fun _ => sameReport_raise s s' _ _ rfl) fun _ => sameReport_finishTx _ _ _ (by decide)

theorem SameFrame.icmpRespond : SameReport (icmpRespond s) (icmpRespond s') := by
  have hu : Machine.l4 s.buf = 16 + 4 * Machine.ihl s.buf := rfl
  rw [Machine.icmpRespond, Machine.icmpRespond, h.ihl h34, h.l4 h34]
  refine h.need _ fun hl4 => ?_
  rw [h.byte (Machine.l4 s.buf) (by omega) (by omega), h.byte (Machine.l4 s.buf + 1) (by omega) (by omega)]
  refine .ite (fun _ => sameReport_raise s s' _ _ rfl) fun _ => ?_
  exact .ite (fun _ => sameReport_raise s s' _ _ rfl) fun _ => h.icmpEchoReply h34 hl4

theorem SameFrame.udpInspect : SameReport (udpInspect s) (udpInspect s') := by
  rw [Machine.udpInspect, Machine.udpInspect, h.ihl h34]
  refine h.need _ fun hl4 => ?_
  rw [h.udpLength h34 hl4]
  refine .ite (fun _ => sameReport_raise s s' _ _ rfl) fun hlen => h.need _ fun hreceived => ?_
  rw [h.udpFields h34 hl4 (Nat.not_lt.mp hlen) hreceived]
  exact sameReport_inspected _ _ _

theorem SameFrame.protoRoute : SameReport (protoRoute s) (protoRoute s') := by
  rw [Machine.protoRoute, Machine.protoRoute, h.byte 25 (by omega) (by omega)]
  refine .ite (fun _ => h.icmpRespond h34) fun _ => ?_
  exact .ite (fun _ => h.udpInspect h34) fun _ => sameReport_raise s s' _ _ rfl

end

theorem SameFrame.ipv4Dispatch : SameReport (ipv4Dispatch s) (ipv4Dispatch s') := by
  refine h.needHeader fun h34 hheader => ?_
  rw [h.ihl h34, h.checksum (by omega) (by omega), h.be16 (a := 26) (by omega) (by omega)]
  exact .ite (fun _ => sameReport_raise s s' _ _ rfl) fun _ => h.protoRoute h34

theorem SameFrame.ethDispatch : SameReport (ethDispatch s) (ethDispatch s') := by
  refine h.need 14 fun h14 => ?_
  rw [h.be16 (a := 14) (by omega) h14]
  refine .ite (fun _ => h.ipv4Dispatch) fun _ => ?_
  exact .ite (fun _ => h.arpRespond) fun _ => sameReport_raise s s' _ _ rfl

/-- PROCESS and each of its rows complete with the same report. -/
theorem SameFrame.exec_sameReport {i : Instr} (hi : Claims.IsProcessRow i) : ∃ c c',
    exec i s = .next (complete s c) ∧ exec i s' = .next (complete s' c') ∧ SameReport c c' := by
  rcases hi with rfl | rfl | rfl | rfl | rfl | rfl | rfl
  · exact ⟨_, _, exec_process s, exec_process s', h.rxLenGate h.ethDispatch⟩
  · exact ⟨_, _, exec_ethIpv4 s, exec_ethIpv4 s', h.ethEntry h.ipv4Dispatch⟩
  · exact ⟨_, _, exec_ethArp s, exec_ethArp s', h.ethEntry h.arpRespond⟩
  · exact ⟨_, _, exec_arpRequest s, exec_arpRequest s', h.ethEntry (h.need 42 fun _ => h.arpReply)⟩
  · exact ⟨_, _, exec_ipv4Icmp s, exec_ipv4Icmp s', h.ipv4Entry fun h34 => h.icmpRespond h34⟩
  · exact ⟨_, _, exec_ipv4Udp s, exec_ipv4Udp s', h.ipv4Entry fun h34 => h.udpInspect h34⟩
  · refine ⟨_, _, exec_icmpEchoRequest s, exec_icmpEchoRequest s', h.ipv4Entry fun h34 => ?_⟩
    rw [h.ihl h34]
    exact h.need _ fun hl4 => h.icmpEchoReply h34 hl4

end

end Sys2Proof.Machine
end

section
/-! The statements of 41_dispatch.md. -/

namespace Sys2Proof.Proofs

open Sys2Proof Sys2Proof.Machine Sys2Proof.Claims

/-- Settles O31: a stage reads only bytes that it has checked to be received, so it ends in the same report. -/
theorem reportReadsReceivedBytesOnly : Obligations.ReportReadsReceivedBytesOnly := by
  intro i s s' t t' hi hparams hrxLen hlmac hbyte ht ht'
  have hframe : SameFrame s s' := ⟨hparams, hrxLen, hlmac, hbyte⟩
  obtain ⟨c, c', hc, hc', hsame⟩ := hframe.exec_sameReport hi
  obtain rfl : complete s c = t := Host.Outcome.next.inj (hc.symm.trans ht)
  obtain rfl : complete s' c' = t' := Host.Outcome.next.inj (hc'.symm.trans ht')
  refine ⟨hsame.code, hsame.info, hsame.aux, hsame.txLen, hsame.tx,
    congrArg ResultCode.isError hsame.code, ?inspect⟩
  intro hcode
  obtain ⟨fields, hf, hf'⟩ := hsame.inspect hcode
  rw [complete_inspect, complete_inspect, hf, hf', Option.getD_some, Option.getD_some]

/-- Settles O14: every row of PROCESS begins with the check of the received length. -/
theorem frameTooLongEndsInRxlen : Obligations.FrameTooLongEndsInRxlen := by
  intro s i hi hwf hlong
  obtain ⟨next, hexec⟩ := exec_processRow hi s
  obtain ⟨_, hmax, _⟩ := bufSize_bounds hwf
  rw [rxLenGate_of_lt hlong] at hexec
  exact ⟨_, hexec, failed_length s .eRxlen (by omega)⟩

/-- Settles O15: the header check, then the EtherType. -/
theorem ethernetDispatch : Obligations.EthernetDispatch := by
  intro s hfits
  refine ⟨?short, ?ipv4, ?arp, ?other⟩
  case short =>
    intro hshort
    refine ⟨_, exec_process s, ?_⟩
    rw [processCommand_of_fits hfits]
    exact failed_need s _ (by decide) hshort
  case ipv4 =>
    intro _ hkey
    rw [exec_process, processCommand_of_ipv4 hkey, exec_ethIpv4]
  case arp =>
    intro _ hkey
    rw [exec_process, processCommand_of_arp hkey, exec_ethArp]
  case other =>
    intro h14 hipv4 harp
    refine ⟨_, exec_process s, ?_⟩
    rw [processCommand_of_fits hfits, ethDispatch_of_other h14 hipv4 harp]
    exact failed_raise_half s .eEthertype (s.buf.be16 14) 0#32

/-- Settles O16: the two length checks, the gate, then the protocol number. -/
theorem ipv4DispatchInOrder : Obligations.Ipv4DispatchInOrder := by
  intro s i hruns h14 hfits
  have hexec := hruns.exec_dispatch h14 hfits
  refine ⟨?fixedHeader, ?header, fun h34 hheader => ⟨?gateFails, fun hgate => ⟨?icmp, ?udp, ?other⟩⟩⟩
  case fixedHeader => exact fun hshort => ⟨_, hexec, failed_need s _ (by decide) hshort⟩
  case header =>
    intro h34 hshort
    have hle := ihl_le s.buf
    rw [ipv4Dispatch_of_header h34 hshort] at hexec
    exact ⟨_, hexec, failed_length s .eTrunc (by omega)⟩
  case gateFails =>
    intro hgate
    rw [ipv4Dispatch_of_gateFails h34 hheader hgate] at hexec
    exact ⟨_, hexec, failed_raise_halves s .eIpCsum (s.buf.be16 26) _⟩
  case icmp => exact fun hkey => RunsIcmp.exec_eq (.inr ⟨hruns, hgate, hkey⟩)
  case udp => exact fun hkey => RunsUdp.exec_eq (.inr ⟨hruns, hgate, hkey⟩)
  case other =>
    intro hicmp hudp
    rw [ipv4Dispatch_of_gatePasses h34 hheader hgate, protoRoute_of_other hicmp hudp] at hexec
    exact ⟨_, hexec, failed_raise_byte s .eIpProto (s.buf.byte 25) 0#32⟩

/-- Settles O17: the gate's span is empty, and the checksum of no words is 0xFFFF. -/
theorem ihlZeroFailsTheGate : Obligations.IhlZeroFailsTheGate := by
  intro s i hruns h34 hfits hihl
  have hempty : checksum s.buf 16 (2 * ihl s.buf) = 0xFFFF#16 := by
    rw [hihl]
    exact (checksum_eq_ones_iff s.buf 16 (by decide)).mpr rfl
  obtain ⟨_, _, hheader⟩ := ipv4DispatchInOrder s i hruns (by omega) hfits
  obtain ⟨hgate, _⟩ := hheader h34 (by omega)
  rw [hempty] at hgate
  exact hgate (by decide)

/-- Settles O25: the UDP header, the datagram's length, then the whole datagram. -/
theorem udpChecksInOrder : Obligations.UdpChecksInOrder := by
  intro s i hruns h34 hheader hfits
  have hexec := hruns.exec_inspect h34 hheader hfits
  have hle := ihl_le s.buf
  have hlt := udpLength_lt s.buf
  refine ⟨?header, ?length, ?datagram⟩
  case header => exact fun hshort => ⟨_, hexec, failed_need s _ (by omega) hshort⟩
  case length =>
    intro hudp hshort
    rw [udpInspect_of_short hudp hshort] at hexec
    exact ⟨_, hexec, failed_raise_nat s .eUdpLen (by omega) (by decide)⟩
  case datagram =>
    intro hudp hlen hshort
    rw [udpInspect_of_length hudp hlen] at hexec
    exact ⟨_, hexec, failed_need s _ (by omega) hshort⟩

/-- Settles O26: every check passes, and each register is a field of the datagram. -/
theorem udpInspected : Obligations.UdpInspected := by
  intro s i hi hvalid
  have hexec := (hvalid.runsUdp hi).exec_inspect hvalid.gate.fixedHeader hvalid.gate.header hvalid.gate.fits
  obtain ⟨_, hwcount⟩ := udpFields_fromDatagram s.buf hvalid.length
  rw [hvalid.udpInspect_eq] at hexec
  exact ⟨_, hexec, finished_complete s _ rfl rfl, complete_hostSideKept s _, fun _ => rfl, rfl,
    rfl, rfl, rfl, rfl, rfl, rfl,
    extractLsb'_be64_high s.buf _, extractLsb'_be64_low s.buf _,
    extractLsb'_be64_high s.buf _, extractLsb'_be64_low s.buf _,
    extractLsb'_be64_high s.buf _, extractLsb'_be64_low s.buf _,
    hwcount, udpFields_payloadOff_toNat s.buf⟩

end Sys2Proof.Proofs
end

section
/-! SUPPORT. The rewrites of 42_reply.md as steps, each read field by field: what a field holds after the step, and the
bytes the step leaves alone. -/

namespace Sys2Proof.Machine

/-! ### Fields that are copied, and fields that take a MAC address -/

theorem byte_setBytes_bytes (m m' : Memory) (a b n k : Nat) (h : k < n) :
    (m.setBytes a (m'.bytes b n)).byte (a + k) = m'.byte (b + k) := by
  rw [byte_setBytes, bytes_length, if_pos (by omega), Nat.add_sub_cancel_left, bytes_getD m' b n k h]

theorem byte_setBytes_bytes_outside (m m' : Memory) (a b n c : Nat) (h : c < a ∨ a + n ≤ c) :
    (m.setBytes a (m'.bytes b n)).byte c = m.byte c :=
  byte_setBytes_outside m a _ c (by rwa [bytes_length])

theorem macBytes_getD (v : BitVec 48) (k : Nat) (h : k < 6) :
    (macBytes v).getD k 0#8 = v.extractLsb' (8 * (5 - k)) 8 := by
  interval_cases k <;> rfl

/-- A MAC address is stored in wire order (10_state.md R44). -/
theorem byte_setBytes_macBytes (m : Memory) (a : Nat) (v : BitVec 48) (k : Nat) (h : k < 6) :
    (m.setBytes a (macBytes v)).byte (a + k) = v.extractLsb' (8 * (5 - k)) 8 := by
  rw [byte_setBytes, macBytes_length, if_pos (by omega), Nat.add_sub_cancel_left, macBytes_getD v k h]

theorem byte_setBytes_macBytes_outside (m : Memory) (a : Nat) (v : BitVec 48) (c : Nat) (h : c < a ∨ a + 6 ≤ c) :
    (m.setBytes a (macBytes v)).byte c = m.byte c := byte_setBytes_outside m a _ c h

theorem be16_eq_of_bytes {m m' : Memory} {a b : Nat} (h : m'.byte a = m.byte b)
    (h' : m'.byte (a + 1) = m.byte (b + 1)) : m'.be16 a = m.be16 b := by
  rw [Memory.be16, Memory.be16, h, h']

theorem be32_eq_of_bytes {m m' : Memory} {a b : Nat} (h : ∀ k, k < 4 → m'.byte (a + k) = m.byte (b + k)) :
    m'.be32 a = m.be32 b := by
  rw [Memory.be32, Memory.be32, be16_eq_of_bytes (a := a) (b := b) (h 0 (by decide)) (h 1 (by decide)),
    be16_eq_of_bytes (h 2 (by decide)) (h 3 (by decide))]

/-- A write of the same field value keeps two buffers alike where they were. -/
theorem byte_setBE16_congr {m m' : Memory} (f : Nat) (v : Half) {b : Nat}
    (h : b ≠ f → b ≠ f + 1 → m'.byte b = m.byte b) : (m'.setBE16 f v).byte b = (m.setBE16 f v).byte b := by
  rw [byte_setBE16, byte_setBE16]
  split
  · rfl
  split
  · rfl
  next hhigh hlow => exact h hlow hhigh

/-! ### The Ethernet step of both responders (42_reply.md R203, R217) -/

section

variable (m : Memory) (lmac : BitVec 48)

theorem byte_icmpSwapMacs_dst (k : Nat) (h : k < 6) : (icmpSwapMacs m lmac).byte (2 + k) = m.byte (8 + k) := by
  simp (disch := omega) only [icmpSwapMacs, byte_setBytes_macBytes_outside, byte_setBytes_bytes_outside,
    byte_setBytes_bytes]

theorem byte_icmpSwapMacs_src (k : Nat) (h : k < 6) :
    (icmpSwapMacs m lmac).byte (8 + k) = lmac.extractLsb' (8 * (5 - k)) 8 := by
  rw [icmpSwapMacs, byte_setBytes_macBytes _ 8 lmac k h]

theorem byte_icmpSwapMacs_outside (a : Nat) (h : a < 2 ∨ 14 ≤ a) : (icmpSwapMacs m lmac).byte a = m.byte a := by
  simp (disch := omega) only [icmpSwapMacs, byte_setBytes_macBytes_outside, byte_setBytes_bytes_outside]

/-! ### The ARP step (42_reply.md R203, R204) -/

/-- The ARP rewrite behind the Ethernet step: OP, the target MAC, the sender MAC, and the two IPv4 addresses. -/
def arpSwapFields : Memory :=
  let m1 := m.setBE16 22 2#16
  let m2 := m1.setBytes 34 (m1.bytes 24 6)
  let m3 := m2.setBytes 24 (macBytes lmac)
  (m3.setBytes 30 (m3.bytes 40 4)).setBytes 40 (m3.bytes 30 4)

theorem arpRewrite_eq : arpRewrite m lmac = arpSwapFields (icmpSwapMacs m lmac) lmac := rfl

theorem be16_arpSwapFields_op : (arpSwapFields m lmac).be16 22 = 2#16 := by
  rw [← be16_setBE16_same m 22 2#16]
  apply be16_eq_of_bytes <;>
    simp (disch := omega) only [arpSwapFields, byte_setBytes_macBytes_outside, byte_setBytes_bytes_outside]

theorem byte_arpSwapFields_senderMac (k : Nat) (h : k < 6) :
    (arpSwapFields m lmac).byte (24 + k) = lmac.extractLsb' (8 * (5 - k)) 8 := by
  simp (disch := omega) only [arpSwapFields, byte_setBytes_bytes_outside, byte_setBytes_macBytes]

theorem byte_arpSwapFields_senderIp (k : Nat) (h : k < 4) :
    (arpSwapFields m lmac).byte (30 + k) = m.byte (40 + k) := by
  simp (disch := omega) only [arpSwapFields, byte_setBytes_bytes_outside, byte_setBytes_macBytes_outside,
    byte_setBytes_bytes, byte_setBE16_outside]

theorem byte_arpSwapFields_targetMac (k : Nat) (h : k < 6) :
    (arpSwapFields m lmac).byte (34 + k) = m.byte (24 + k) := by
  simp (disch := omega) only [arpSwapFields, byte_setBytes_bytes_outside, byte_setBytes_macBytes_outside,
    byte_setBytes_bytes, byte_setBE16_outside]

theorem byte_arpSwapFields_targetIp (k : Nat) (h : k < 4) :
    (arpSwapFields m lmac).byte (40 + k) = m.byte (30 + k) := by
  simp (disch := omega) only [arpSwapFields, byte_setBytes_bytes_outside, byte_setBytes_macBytes_outside,
    byte_setBytes_bytes, byte_setBE16_outside]

theorem byte_arpSwapFields_outside (a : Nat) (h : a < 22 ∨ 44 ≤ a) : (arpSwapFields m lmac).byte a = m.byte a := by
  simp (disch := omega) only [arpSwapFields, byte_setBytes_bytes_outside, byte_setBytes_macBytes_outside,
    byte_setBE16_outside]

/-- The ARP rewrite stores to the MAC addresses and to the ARP fields behind PLEN only (42_reply.md R204). -/
theorem byte_arpRewrite_outside (a : Nat) (h : a < 2 ∨ 14 ≤ a ∧ a < 22 ∨ 44 ≤ a) :
    (arpRewrite m lmac).byte a = m.byte a := by
  rw [arpRewrite_eq, byte_arpSwapFields_outside _ lmac a (by omega), byte_icmpSwapMacs_outside m lmac a (by omega)]

/-! ### The IPv4 address step (42_reply.md R218) -/

theorem byte_icmpSwapAddresses_src (k : Nat) (h : k < 4) :
    (icmpSwapAddresses m).byte (28 + k) = m.byte (32 + k) := by
  simp (disch := omega) only [icmpSwapAddresses, byte_setBytes_bytes_outside, byte_setBytes_bytes]

theorem byte_icmpSwapAddresses_dst (k : Nat) (h : k < 4) :
    (icmpSwapAddresses m).byte (32 + k) = m.byte (28 + k) := by
  rw [icmpSwapAddresses, byte_setBytes_bytes _ m 32 28 4 k h]

theorem byte_icmpSwapAddresses_outside (a : Nat) (h : a < 28 ∨ 36 ≤ a) :
    (icmpSwapAddresses m).byte a = m.byte a := by
  simp (disch := omega) only [icmpSwapAddresses, byte_setBytes_bytes_outside]

theorem be16_icmpSwapAddresses_src (k : Nat) (h : k < 3) : (icmpSwapAddresses m).be16 (28 + k) = m.be16 (32 + k) :=
  be16_eq_of_bytes (byte_icmpSwapAddresses_src m k (by omega)) (byte_icmpSwapAddresses_src m (k + 1) (by omega))

theorem be16_icmpSwapAddresses_dst (k : Nat) (h : k < 3) : (icmpSwapAddresses m).be16 (32 + k) = m.be16 (28 + k) :=
  be16_eq_of_bytes (byte_icmpSwapAddresses_dst m k (by omega)) (byte_icmpSwapAddresses_dst m (k + 1) (by omega))

/-! ### The ICMP rewrite as its steps (42_reply.md R217 to R220) -/

/-- The buffer behind the two address steps. -/
def icmpAddressed : Memory := icmpSwapAddresses (icmpSwapMacs m lmac)

/-- The buffer behind the IPv4 checksum over `h` header words of 32 bits. -/
def icmpHeaderSummed (h : Nat) : Memory := construct (icmpAddressed m lmac) 16 (2 * h) 26

/-- The buffer behind the type at `t`. -/
def icmpTyped (h t : Nat) : Memory := (icmpHeaderSummed m lmac h).setByte t 0#8

theorem icmpRewrite_eq (h t n : Nat) :
    icmpRewrite m lmac h t n = construct (icmpTyped m lmac h t) t n (t + 2) := rfl

theorem byte_icmpAddressed_outside (a : Nat) (ha : a < 2 ∨ 14 ≤ a ∧ a < 28 ∨ 36 ≤ a) :
    (icmpAddressed m lmac).byte a = m.byte a := by
  rw [icmpAddressed, byte_icmpSwapAddresses_outside _ a (by omega), byte_icmpSwapMacs_outside m lmac a (by omega)]

theorem byte_icmpHeaderSummed_outside (h a : Nat) (ha : a ≠ 26) (ha' : a ≠ 27) :
    (icmpHeaderSummed m lmac h).byte a = (icmpAddressed m lmac).byte a := byte_construct_outside _ 16 _ 26 a ha ha'

section

variable (h t n a : Nat)

/-- Behind the two address steps and the IPv4 checksum only the ICMP type and checksum are stored to. -/
theorem byte_icmpRewrite_of_notIcmp (ht : a ≠ t) (ht2 : a ≠ t + 2) (ht3 : a ≠ t + 3) :
    (icmpRewrite m lmac h t n).byte a = (icmpHeaderSummed m lmac h).byte a := by
  rw [icmpRewrite_eq, byte_construct_outside _ t n (t + 2) a ht2 ht3, icmpTyped, byte_setByte_other _ t _ a ht]

theorem byte_icmpRewrite_type : (icmpRewrite m lmac h t n).byte t = 0#8 := by
  rw [icmpRewrite_eq, byte_construct_outside _ t n (t + 2) t (by omega) (by omega), icmpTyped, byte_setByte_same]

/-- The ICMP rewrite stores to the MAC addresses, the IPv4 checksum and addresses, the type and the ICMP checksum only
(42_reply.md R224). -/
theorem byte_icmpRewrite_outside (ha : a < 2 ∨ 14 ≤ a ∧ a < 26 ∨ 36 ≤ a) (ht : a ≠ t) (ht2 : a ≠ t + 2)
    (ht3 : a ≠ t + 3) : (icmpRewrite m lmac h t n).byte a = m.byte a := by
  rw [byte_icmpRewrite_of_notIcmp m lmac h t n a ht ht2 ht3,
    byte_icmpHeaderSummed_outside m lmac h a (by omega) (by omega), byte_icmpAddressed_outside m lmac a (by omega)]

/-- In front of the ICMP header and off the IPv4 checksum the reply holds what the address steps left. -/
theorem byte_icmpRewrite_addressed (ha : a < t) (h26 : a ≠ 26) (h27 : a ≠ 27) :
    (icmpRewrite m lmac h t n).byte a = (icmpAddressed m lmac).byte a := by
  rw [byte_icmpRewrite_of_notIcmp m lmac h t n a (by omega) (by omega) (by omega),
    byte_icmpHeaderSummed_outside m lmac h a h26 h27]

end

/-- The MAC addresses of the reply, for every place of the ICMP header behind them (42_reply.md R217). -/
theorem byte_icmpRewrite_macs (h t n k : Nat) (ht : 16 ≤ t) (hk : k < 6) :
    (icmpRewrite m lmac h t n).byte (2 + k) = m.byte (8 + k) ∧
      (icmpRewrite m lmac h t n).byte (8 + k) = lmac.extractLsb' (8 * (5 - k)) 8 := by
  rw [byte_icmpRewrite_addressed m lmac h t n (2 + k) (by omega) (by omega) (by omega),
    byte_icmpRewrite_addressed m lmac h t n (8 + k) (by omega) (by omega) (by omega), icmpAddressed,
    byte_icmpSwapAddresses_outside _ (2 + k) (by omega), byte_icmpSwapAddresses_outside _ (8 + k) (by omega)]
  exact ⟨byte_icmpSwapMacs_dst m lmac k hk, byte_icmpSwapMacs_src m lmac k hk⟩

/-- The IPv4 addresses of the reply, where the ICMP header lies behind them (42_reply.md R218). -/
theorem byte_icmpRewrite_ips (h n k : Nat) {t : Nat} (ht : 36 ≤ t) (hk : k < 4) :
    (icmpRewrite m lmac h t n).byte (28 + k) = m.byte (32 + k) ∧
      (icmpRewrite m lmac h t n).byte (32 + k) = m.byte (28 + k) := by
  rw [byte_icmpRewrite_addressed m lmac h t n (28 + k) (by omega) (by omega) (by omega),
    byte_icmpRewrite_addressed m lmac h t n (32 + k) (by omega) (by omega) (by omega), icmpAddressed,
    byte_icmpSwapAddresses_src _ k hk, byte_icmpSwapAddresses_dst _ k hk,
    byte_icmpSwapMacs_outside m lmac (32 + k) (by omega), byte_icmpSwapMacs_outside m lmac (28 + k) (by omega)]
  exact ⟨rfl, rfl⟩

theorem be32_icmpRewrite_ips (h n : Nat) {t : Nat} (ht : 36 ≤ t) :
    (icmpRewrite m lmac h t n).be32 28 = m.be32 32 ∧ (icmpRewrite m lmac h t n).be32 32 = m.be32 28 := by
  have hips k hk := byte_icmpRewrite_ips m lmac h n k ht hk
  exact ⟨be32_eq_of_bytes fun k hk => (hips k hk).1, be32_eq_of_bytes fun k hk => (hips k hk).2⟩

theorem be16_icmpRewrite_checksum (h t n : Nat) : (icmpRewrite m lmac h t n).be16 (t + 2) =
    checksum ((icmpTyped m lmac h t).setBE16 (t + 2) 0#16) t n := be16_construct_same _ t n (t + 2)

end

end Sys2Proof.Machine
end

section
/-! SUPPORT. The checksums of an ICMP reply: the exact sum of a span in parts, what the address swap does to the IPv4
header's sum, and the field that construction leaves in a span that validated before. -/

namespace Sys2Proof.Machine

open Sys2Proof.Claims

/-! ### The exact sum in parts -/

theorem wordSum_congr {m m' : Memory} {a n : Nat} (h : ∀ b, a ≤ b → b < a + 2 * n → m'.byte b = m.byte b) :
    wordSum m' a n = wordSum m a n := by
  induction n with
  | zero => rfl
  | succ n ih =>
    rw [wordSum, wordSum, ih fun b hb hb' => h b hb (by omega),
      be16_congr m m' _ (h _ (by omega) (by omega)) (h _ (by omega) (by omega))]

theorem wordSum_add (m : Memory) (a j k : Nat) : wordSum m a (j + k) = wordSum m a j + wordSum m (a + 2 * j) k := by
  induction k with
  | zero => rfl
  | succ k ih =>
    have hword : a + 2 * (j + k) = a + 2 * j + 2 * k := by omega
    rw [← Nat.add_assoc, wordSum, wordSum, ih, hword, Nat.add_assoc]

/-! ### The IPv4 header's sum -/

/-- The address swap only moves words of the header, so it keeps the sum of every header that holds both addresses
(40_checksum.md R144; 42_reply.md R219). -/
theorem wordSum_icmpSwapAddresses (m : Memory) {n : Nat} (hn : 10 ≤ n) :
    wordSum (icmpSwapAddresses m) 16 n = wordSum m 16 n := by
  obtain ⟨k, rfl⟩ : ∃ k, n = 6 + (4 + k) := ⟨n - 10, by omega⟩
  have hfront : wordSum (icmpSwapAddresses m) 16 6 = wordSum m 16 6 :=
    wordSum_congr fun b _ hb => byte_icmpSwapAddresses_outside m b (by omega)
  have hback : wordSum (icmpSwapAddresses m) 36 k = wordSum m 36 k :=
    wordSum_congr fun b hb _ => byte_icmpSwapAddresses_outside m b (by omega)
  have haddresses : wordSum (icmpSwapAddresses m) 28 4 = wordSum m 28 4 := by
    have hsrc := be16_icmpSwapAddresses_src m 0 (by decide)
    have hsrc' := be16_icmpSwapAddresses_src m 2 (by decide)
    have hdst := be16_icmpSwapAddresses_dst m 0 (by decide)
    have hdst' := be16_icmpSwapAddresses_dst m 2 (by decide)
    simp only [wordSum, Nat.reduceMul, Nat.reduceAdd] at hsrc hsrc' hdst hdst' ⊢
    rw [hsrc, hsrc', hdst, hdst']
    omega
  rw [wordSum_add, wordSum_add, wordSum_add m, wordSum_add m, hfront, haddresses, hback]

theorem wordSum_icmpAddressed (m : Memory) (lmac : BitVec 48) {n : Nat} (hn : 10 ≤ n) :
    wordSum (icmpAddressed m lmac) 16 n = wordSum m 16 n := by
  rw [icmpAddressed, wordSum_icmpSwapAddresses _ hn]
  exact wordSum_congr fun b hb _ => byte_icmpSwapMacs_outside m lmac b (.inr (by omega))

/-- The IPv4 checksum of the reply is computed from the same sum as one of the request (42_reply.md R219). -/
theorem checksum_icmpAddressed (m : Memory) (lmac : BitVec 48) {n : Nat} (hn : 10 ≤ n) :
    checksum ((icmpAddressed m lmac).setBE16 26 0#16) 16 n = checksum (m.setBE16 26 0#16) 16 n := by
  have hreply := wordSum_setBE16_word (icmpAddressed m lmac) 16 n 5 0#16 (by omega)
  have hrequest := wordSum_setBE16_word m 16 n 5 0#16 (by omega)
  have hfield : (icmpAddressed m lmac).be16 26 = m.be16 26 :=
    be16_eq_of_bytes (byte_icmpAddressed_outside m lmac 26 (by decide)) (byte_icmpAddressed_outside m lmac 27 (by decide))
  simp only [Nat.reduceMul, Nat.reduceAdd] at hreply hrequest
  rw [hfield, wordSum_icmpAddressed m lmac hn] at hreply
  exact checksum_eq_of_wordSum_eq (by omega)

/-! ### Construction in a span that validates -/

/-- Where a span validates, construction of one of its words gives that word back; 0xFFFF alone becomes 0x0000 (the
exception of 42_reply.md R219). -/
theorem checksum_zeroed_of_validates (m : Memory) (a : Nat) {n k : Nat} (hn : n ≤ 65535) (hk : k < n)
    (hvalid : checksum m a n = 0#16) (hpos : 0 < wordSum (m.setBE16 (a + 2 * k) 0#16) a n) :
    checksum (m.setBE16 (a + 2 * k) 0#16) a n =
      if m.be16 (a + 2 * k) = 0xFFFF#16 then 0x0000#16 else m.be16 (a + 2 * k) := by
  obtain ⟨_, hmultiple⟩ := (checksum_eq_zero_iff m a hn).mp hvalid
  have hsum : wordSum (m.setBE16 (a + 2 * k) 0#16) a n + (m.be16 (a + 2 * k)).toNat = wordSum m a n :=
    wordSum_setBE16_word m a n k 0#16 hk
  have hword := (m.be16 (a + 2 * k)).isLt
  have hones : m.be16 (a + 2 * k) = 0xFFFF#16 ↔ (m.be16 (a + 2 * k)).toNat = 65535 := BitVec.toNat_inj.symm
  have hcomputed := checksum_toNat (m.setBE16 (a + 2 * k) 0#16) a n
  rw [folded_toNat _ a hn, if_neg (by omega)] at hcomputed
  apply BitVec.eq_of_toNat_eq
  split
  next hfield =>
    have hfield' := hones.mp hfield
    rw [hcomputed, BitVec.toNat_ofNat]
    omega
  next hfield =>
    have hfield' := mt hones.mpr hfield
    omega

/-- A header with a header length holds a word that is not 0 in front of its checksum. -/
theorem wordSum_header_pos (m : Memory) {n : Nat} (hn : 0 < n) (hihl : ihl m ≠ 0) :
    0 < wordSum (m.setBE16 26 0#16) 16 n := by
  refine Nat.pos_of_ne_zero fun hzero => hihl ?_
  have hfirst : (m.setBE16 26 0#16).be16 16 = 0#8 ++ 0#8 := (wordSum_eq_zero_iff _ 16 n).mp hzero 0 hn
  rw [be16_setBE16_other m 26 _ 16 (.inl (by decide))] at hfirst
  obtain ⟨hbyte, _⟩ := (be16_eq_append_iff m 16 0#8 0#8).mp hfirst
  rw [ihl, hbyte]
  rfl

/-! ### The checksums of the reply -/

section

variable (m : Memory) (lmac : BitVec 48) (h : Nat) {t : Nat} (n : Nat)

/-- The IPv4 header in front of the ICMP header is, but for its checksum, what the address steps left. -/
theorem checksum_icmpRewrite_zeroed (ht : 16 + 4 * h ≤ t) :
    checksum ((icmpRewrite m lmac h t n).setBE16 26 0#16) 16 (2 * h) =
      checksum ((icmpAddressed m lmac).setBE16 26 0#16) 16 (2 * h) :=
  checksum_congr _ _ 16 _ fun b _ hb =>
    byte_setBE16_congr 26 0#16 fun h26 h27 => byte_icmpRewrite_addressed m lmac h t n b (by omega) h26 h27

/-- The IPv4 checksum stays where its field lies in front of the ICMP header. -/
theorem be16_icmpRewrite_header (ht : 28 ≤ t) : (icmpRewrite m lmac h t n).be16 26 =
    checksum ((icmpAddressed m lmac).setBE16 26 0#16) 16 (2 * h) := by
  rw [← be16_construct_same (icmpAddressed m lmac) 16 (2 * h) 26]
  exact be16_eq_of_bytes
    (byte_icmpRewrite_of_notIcmp m lmac h t n 26 (by omega) (by omega) (by omega))
    (byte_icmpRewrite_of_notIcmp m lmac h t n 27 (by omega) (by omega) (by omega))

/-- The reply's IPv4 header validates where it holds its checksum and lies in front of the ICMP header (42_reply.md
R223). -/
theorem checksum_icmpRewrite_header (hh : 5 ≤ h) (hle : h ≤ 15) (ht : 16 + 4 * h ≤ t) :
    checksum (icmpRewrite m lmac h t n) 16 (2 * h) = 0#16 := by
  have hheader : checksum (icmpRewrite m lmac h t n) 16 (2 * h) =
      checksum (icmpHeaderSummed m lmac h) 16 (2 * h) :=
    checksum_congr _ _ 16 _ fun b _ hb =>
      byte_icmpRewrite_of_notIcmp m lmac h t n b (by omega) (by omega) (by omega)
  rw [hheader, icmpHeaderSummed]
  exact Proofs.constructThenValidate _ 16 (2 * h) 26 (by omega) (by omega) (by decide) (by omega) (by decide)

/-- The ICMP checksum is constructed last, so it validates wherever the ICMP header lies (42_reply.md R223, R225). -/
theorem checksum_icmpRewrite_icmp (hn : 2 ≤ n) (hle : n ≤ 65535) :
    checksum (icmpRewrite m lmac h t n) t n = 0#16 := by
  rw [icmpRewrite_eq]
  exact Proofs.constructThenValidate _ t n (t + 2) (by omega) hle (by omega) (by omega) (by omega)

/-- Where the ICMP header lies behind the addresses, its checksum is computed over the request with type 0. -/
theorem checksum_icmpTyped (ht : 36 ≤ t) : checksum ((icmpTyped m lmac h t).setBE16 (t + 2) 0#16) t n =
    checksum ((m.setByte t 0#8).setBE16 (t + 2) 0#16) t n := by
  refine checksum_congr _ _ t n fun b hb _ => byte_setBE16_congr (t + 2) 0#16 fun _ _ => ?_
  rw [icmpTyped, byte_setByte, byte_setByte, byte_icmpHeaderSummed_outside m lmac h b (by omega) (by omega),
    byte_icmpAddressed_outside m lmac b (by omega)]

end

end Sys2Proof.Machine
end

section
/-! SUPPORT. The responders of 42_reply.md check by check, and what a request that passes every check makes of them. -/

namespace Sys2Proof.Machine

variable {s : State}

/-! ### The ARP responder's checks (42_reply.md R200 to R202) -/

theorem arpRespond_of_received (h42 : 42 ≤ s.latched.rxLen.toNat) : arpRespond s = arpValidate s (arpReply s) :=
  need_of_le s 42 _ h42

section

variable (c : Completion)

theorem arpValidate_of_op (hop : s.buf.be16 22 ≠ 1#16) :
    arpValidate s c = raise s .eArpOp ((s.buf.be16 22).zeroExtend 32) 0#32 := if_pos hop

variable (hop : s.buf.be16 22 = 1#16)
include hop

theorem arpValidate_of_htype (hhtype : s.buf.be16 16 ≠ 1#16) :
    arpValidate s c = raise s .eArpHtype ((s.buf.be16 16).zeroExtend 32) 0#32 := by
  rw [arpValidate, if_neg (not_not.mpr hop), if_pos hhtype]

variable (hhtype : s.buf.be16 16 = 1#16)
include hhtype

theorem arpValidate_of_ptype (hptype : s.buf.be16 18 ≠ 0x0800#16) :
    arpValidate s c = raise s .eArpPtype ((s.buf.be16 18).zeroExtend 32) 0#32 := by
  rw [arpValidate, if_neg (not_not.mpr hop), if_neg (not_not.mpr hhtype), if_pos hptype]

variable (hptype : s.buf.be16 18 = 0x0800#16)
include hptype

theorem arpValidate_of_hlen (hhlen : s.buf.byte 20 ≠ 6#8) :
    arpValidate s c = raise s .eArpHlen ((s.buf.byte 20).zeroExtend 32) 0#32 := by
  rw [arpValidate, if_neg (not_not.mpr hop), if_neg (not_not.mpr hhtype), if_neg (not_not.mpr hptype), if_pos hhlen]

theorem arpValidate_of_plen (hhlen : s.buf.byte 20 = 6#8) (hplen : s.buf.byte 21 ≠ 4#8) :
    arpValidate s c = raise s .eArpPlen ((s.buf.byte 21).zeroExtend 32) 0#32 := by
  rw [arpValidate, if_neg (not_not.mpr hop), if_neg (not_not.mpr hhtype), if_neg (not_not.mpr hptype),
    if_neg (not_not.mpr hhlen), if_pos hplen]

end

theorem arpReply_of_noLmac (hlmac : s.latched.lmacValid = false) : arpReply s = raise s .eNoLmac 0#32 0#32 :=
  if_pos hlmac

theorem arpReply_of_lmac (hlmac : s.latched.lmacValid = true) :
    arpReply s = finishTx (arpRewrite s.buf s.latched.lmac) .okArpReply 48 :=
  if_neg (by rw [hlmac]; decide)

/-! ### The ICMP responder's checks (42_reply.md R210 to R216) -/

section

variable (hicmp : 22 + 4 * ihl s.buf ≤ s.latched.rxLen.toNat)
include hicmp

theorem icmpRespond_of_type (htype : s.buf.byte (l4 s.buf) ≠ 8#8) :
    icmpRespond s = raise s .eIcmpType ((s.buf.byte (l4 s.buf)).zeroExtend 32) 0#32 := by
  rw [icmpRespond, need_of_le s _ _ hicmp, if_pos htype]

theorem icmpRespond_of_code (htype : s.buf.byte (l4 s.buf) = 8#8) (hcode : s.buf.byte (l4 s.buf + 1) ≠ 0#8) :
    icmpRespond s = raise s .eIcmpCode ((s.buf.byte (l4 s.buf + 1)).zeroExtend 32) 0#32 := by
  rw [icmpRespond, need_of_le s _ _ hicmp, if_neg (not_not.mpr htype), if_pos hcode]

theorem icmpRespond_of_echo (htype : s.buf.byte (l4 s.buf) = 8#8) (hcode : s.buf.byte (l4 s.buf + 1) = 0#8) :
    icmpRespond s = icmpEchoReply s := by
  rw [icmpRespond_of_key ((be16_eq_keyIcmpEcho s.buf _).mpr ⟨htype, hcode⟩), need_of_le s _ _ hicmp]

end

theorem icmpEchoReply_of_short (hlen : totalLength s.buf < 4 * ihl s.buf + 8) : icmpEchoReply s =
    raise s .eIcmpLen (BitVec.ofNat 32 (totalLength s.buf)) (BitVec.ofNat 32 (4 * ihl s.buf + 8)) := if_pos hlen

section

variable (hlen : 4 * ihl s.buf + 8 ≤ totalLength s.buf)
include hlen

theorem icmpEchoReply_of_truncated (hshort : s.latched.rxLen.toNat < 14 + totalLength s.buf) : icmpEchoReply s =
    raise s .eTrunc (s.latched.rxLen.zeroExtend 32) (BitVec.ofNat 32 (14 + totalLength s.buf)) := by
  rw [icmpEchoReply, if_neg (Nat.not_lt.mpr hlen), need_of_lt s _ _ hshort]

variable (hreceived : 14 + totalLength s.buf ≤ s.latched.rxLen.toNat)
include hreceived

theorem icmpEchoReply_of_checksumFails (hsum : checksum s.buf (l4 s.buf) (icmpWords s.buf) ≠ 0#16) :
    icmpEchoReply s = raise s .eIcmpCsum ((s.buf.be16 (l4 s.buf + 2)).zeroExtend 32)
      ((checksum s.buf (l4 s.buf) (icmpWords s.buf)).zeroExtend 32) := by
  rw [icmpEchoReply, if_neg (Nat.not_lt.mpr hlen), need_of_le s _ _ hreceived, if_pos hsum]

variable (hsum : checksum s.buf (l4 s.buf) (icmpWords s.buf) = 0#16)
include hsum

theorem icmpEchoReply_of_noLmac (hlmac : s.latched.lmacValid = false) :
    icmpEchoReply s = raise s .eNoLmac 0#32 0#32 := by
  rw [icmpEchoReply, if_neg (Nat.not_lt.mpr hlen), need_of_le s _ _ hreceived, if_neg (not_not.mpr hsum), if_pos hlmac]

theorem icmpEchoReply_of_lmac (hlmac : s.latched.lmacValid = true) : icmpEchoReply s =
    finishTx (icmpRewrite s.buf s.latched.lmac (ihl s.buf) (l4 s.buf) (icmpWords s.buf)) .okIcmpReply
      (ceil8 (totalLength s.buf + 16)) := by
  rw [icmpEchoReply, if_neg (Nat.not_lt.mpr hlen), need_of_le s _ _ hreceived, if_neg (not_not.mpr hsum),
    if_neg (by rw [hlmac]; decide)]

end

theorem totalLength_lt (m : Memory) : totalLength m < 65536 := (m.be16 18).isLt

/-- PROCESS and each of its rows end with an error or in one of the three ways PROCESS succeeds. -/
theorem exec_processRow_ends {i : Instr} (h : Claims.IsProcessRow i) (s : State) :
    ∃ c, exec i s = .next (complete s c) ∧ ProcessEnd s c := by
  rcases h with rfl | rfl | rfl | rfl | rfl | rfl | rfl
  · exact ⟨_, exec_process s, processCommand_ends s⟩
  · exact ⟨_, exec_ethIpv4 s, ethEntry_ends s _ (ipv4Dispatch_ends s)⟩
  · exact ⟨_, exec_ethArp s, ethEntry_ends s _ (arpRespond_ends s)⟩
  · exact ⟨_, exec_arpRequest s, ethEntry_ends s _ (need_ends s _ _ _ (arpReply_ends s))⟩
  · exact ⟨_, exec_ipv4Icmp s, ipv4Entry_ends s _ (icmpRespond_ends s)⟩
  · exact ⟨_, exec_ipv4Udp s, ipv4Entry_ends s _ fun _ => udpInspect_ends s⟩
  · exact ⟨_, exec_icmpEchoRequest s,
      ipv4Entry_ends s _ fun h34 => need_ends s _ _ _ fun _ => icmpEchoReply_ends s h34⟩

theorem Raised.byte {c : Completion} (h : Raised s c) (a : Nat) : c.buf.byte a = s.buf.byte a := by
  obtain ⟨code, info, aux, _, rfl⟩ := h
  rfl

/-- A success of PROCESS writes received bytes only (30_encoding.md R105; 42_reply.md R205, R222). -/
theorem Succeeded.byte_outside {c : Completion} (h : Succeeded s c) {a : Nat}
    (ha : a < 2 ∨ 2 + s.latched.rxLen.toNat ≤ a) : c.buf.byte a = s.buf.byte a := by
  rcases h with ⟨h42, _, rfl⟩ | ⟨h34, hlen, hreceived, _, rfl⟩ | ⟨_, _, rfl⟩
  case inl => exact byte_arpRewrite_outside _ _ a (by omega)
  case inr.inl =>
    have hl4 : l4 s.buf = 16 + 4 * ihl s.buf := rfl
    exact byte_icmpRewrite_outside _ _ _ _ _ a (by omega) (by omega) (by omega) (by omega)
  case inr.inr => rfl

/-- CSUM reads the buffer only (40_checksum.md R149). -/
theorem csumCommand_buf (s : State) : (csumCommand s).buf = s.buf := by
  rcases csumCommand_ends s with ⟨_, _, _, _, h⟩ | ⟨_, h⟩ <;> rw [h] <;> rfl

end Sys2Proof.Machine

namespace Sys2Proof.Claims

open Sys2Proof.Machine

/-! ### Completion by `finish_tx` -/

section

variable (s : State) (m : Memory) {code : ResultCode} {len : Nat}

/-- A completion by `finish_tx` with a success reports its length (00_scope.md R16). -/
theorem finishedTx_complete (hcode : code.isError = false) (hlen : len < 2 ^ 17) :
    FinishedTx (complete s (finishTx m code len)) code len :=
  ⟨rfl, rfl, rfl, rfl, hcode, rfl, rfl, by
    rw [complete_txLen, finishTx_txLen, BitVec.toNat_ofNat, Nat.mod_eq_of_lt hlen]⟩

theorem csumResult_complete_finishTx : (complete s (finishTx m code len)).csumResult = s.csumResult := rfl

theorem inspect_complete_finishTx : (complete s (finishTx m code len)).inspect = s.inspect := rfl

end

/-! ### The row that runs -/

section

variable {i : Instr} {s : State}

/-- Wherever the ARP responder runs, the command is ETH_ARP (41_dispatch.md R162). -/
theorem RunsArp.exec_eq (h : RunsArp i s) : exec i s = exec .ethArp s := by
  rcases h with rfl | ⟨rfl, hkey⟩
  · rfl
  · rw [exec_process, processCommand_of_arp hkey, exec_ethArp]

theorem RunsArp.exec_respond (h : RunsArp i s) (h14 : 14 ≤ rx s) (hfits : rx s ≤ s.params.bufSize - 2) :
    exec i s = .next (complete s (arpRespond s)) := by
  rw [h.exec_eq, exec_ethArp, ethEntry_of_received hfits h14]

theorem RunsIcmp.exec_respond (h : RunsIcmp i s) (h34 : 34 ≤ rx s) (hheader : 14 + 4 * ihl s.buf ≤ rx s)
    (hfits : rx s ≤ s.params.bufSize - 2) : exec i s = .next (complete s (icmpRespond s)) := by
  rw [h.exec_eq, exec_ipv4Icmp, ipv4Entry_of_received hfits h34 hheader]

/-! ### A valid ARP request -/

/-- A valid request passes every check of each row on its way (42_reply.md R200, R201). -/
theorem ArpRequestValid.exec_reply (h : ArpRequestValid s) (hi : i = .process ∨ i = .ethArp ∨ i = .arpRequest) :
    exec i s = .next (complete s (arpReply s)) := by
  have h14 : 14 ≤ rx s := le_trans (by decide) h.received
  have hkey : s.buf.be64 16 = keyArpRequest :=
    (be64_eq_keyArpRequest s.buf 16).mpr ⟨⟨h.htype, h.ptype⟩, ⟨h.hlen, h.plen⟩, h.op⟩
  have hrespond : arpRespond s = arpReply s := by rw [arpRespond_of_received h.received, arpValidate_of_key hkey]
  rcases hi with rfl | rfl | rfl
  · rw [RunsArp.exec_respond (.inr ⟨rfl, h.etherType⟩) h14 h.fits, hrespond]
  · rw [RunsArp.exec_respond (.inl rfl) h14 h.fits, hrespond]
  · rw [exec_arpRequest, ethEntry_of_received h.fits h14, need_of_le s 42 _ h.received]

/-! ### A valid echo request -/

section

variable (h : IcmpEchoValid s)
include h

theorem IcmpEchoValid.header_received : 22 + 4 * ihl s.buf ≤ rx s := by
  have hlen := h.length
  have hreceived := h.received
  omega

/-- A valid request passes every check up to the ICMP key of each row on its way (42_reply.md R210 to R212). -/
theorem IcmpEchoValid.exec_echo
    (hi : i = .process ∨ i = .ethIpv4 ∨ i = .ipv4Icmp ∨ i = .icmpEchoRequest) :
    exec i s = .next (complete s (icmpEchoReply s)) := by
  have hicmp := h.header_received
  have hrespond (hruns : RunsIcmp i s) : exec i s = .next (complete s (icmpEchoReply s)) := by
    rw [hruns.exec_respond h.gate.fixedHeader h.gate.header h.gate.fits, icmpRespond_of_echo hicmp h.type h.code]
  rcases hi with rfl | rfl | rfl | rfl
  · exact hrespond (.inr ⟨.inr ⟨rfl, h.gate.etherType⟩, h.gate.checksum, h.protocol⟩)
  · exact hrespond (.inr ⟨.inl rfl, h.gate.checksum, h.protocol⟩)
  · exact hrespond (.inl rfl)
  · rw [exec_icmpEchoRequest, ipv4Entry_of_received h.gate.fits h.gate.fixedHeader h.gate.header,
      need_of_le s _ _ hicmp]

/-- With a latched local MAC every row on its way ends with the rewritten buffer (42_reply.md R216 to R223). -/
theorem IcmpEchoValid.exec_reply (hlmac : s.latched.lmacValid = true)
    (hi : i = .process ∨ i = .ethIpv4 ∨ i = .ipv4Icmp ∨ i = .icmpEchoRequest) :
    exec i s = .next (complete s (finishTx
      (icmpRewrite s.buf s.latched.lmac (ihl s.buf) (l4 s.buf) (icmpWords s.buf)) .okIcmpReply
      (ceil8 (totalLength s.buf + 16)))) := by
  rw [h.exec_echo hi, icmpEchoReply_of_lmac h.length h.received h.icmpChecksum hlmac]

theorem IcmpEchoValid.finishedTx (m : Memory) :
    FinishedTx (complete s (finishTx m .okIcmpReply (ceil8 (totalLength s.buf + 16)))) .okIcmpReply
      (ceil8 (totalLength s.buf + 16)) := by
  have hreceived := h.received
  have hrx : rx s < 65536 := s.latched.rxLen.isLt
  exact finishedTx_complete s m (by decide) (by rw [ceil8]; omega)

/-- The frame lies in the buffer, and so does its length rounded up (42_reply.md R222). -/
theorem IcmpEchoValid.txLen_le (hwf : s.params.wf = true) :
    (BitVec.ofNat 17 (ceil8 (totalLength s.buf + 16))).toNat ≤ s.params.bufSize := by
  obtain ⟨hmin, hmax, h8⟩ := bufSize_bounds hwf
  have hreceived := h.received
  have hfits := h.gate.fits
  exact (ceil8_txLen s.params.bufSize _ hmax h8 (by omega)).1

theorem IcmpEchoValid.words_bounds : 2 ≤ icmpWords s.buf ∧ icmpWords s.buf ≤ 65535 := by
  have hlen := h.length
  have hle := icmpWords_le s.buf
  refine ⟨?_, by omega⟩
  rw [icmpWords]
  omega

end

end

/-- The steps of the rewrite are the buffers that 42_reply.md R217 to R220 speak of. -/
theorem rewrittenInOrder_icmpRewrite (s : State) :
    RewrittenInOrder s (icmpRewrite s.buf s.latched.lmac (ihl s.buf) (l4 s.buf) (icmpWords s.buf)) := by
  refine ⟨icmpAddressed s.buf s.latched.lmac, icmpHeaderSummed s.buf s.latched.lmac (ihl s.buf),
    icmpTyped s.buf s.latched.lmac (ihl s.buf) (l4 s.buf),
    ⟨?dstMac, ?srcMac, ?srcIp, ?dstIp, fun a ha => byte_icmpAddressed_outside _ _ a ha⟩,
    ⟨be16_construct_same _ 16 _ 26, fun a ha ha' => byte_icmpHeaderSummed_outside _ _ _ a ha ha'⟩,
    ⟨byte_setByte_same _ _ _, fun a ha => byte_setByte_other _ _ _ a ha⟩,
    be16_icmpRewrite_checksum _ _ _ _ _, fun a ha ha' => byte_construct_outside _ _ _ _ a ha ha'⟩
  all_goals intro k hk
  case dstMac =>
    rw [icmpAddressed, byte_icmpSwapAddresses_outside _ _ (by omega), byte_icmpSwapMacs_dst _ _ k hk]
  case srcMac =>
    rw [icmpAddressed, byte_icmpSwapAddresses_outside _ _ (by omega), byte_icmpSwapMacs_src _ _ k hk, lmacByte]
  case srcIp =>
    rw [icmpAddressed, byte_icmpSwapAddresses_src _ k hk, byte_icmpSwapMacs_outside _ _ _ (by omega)]
  case dstIp =>
    rw [icmpAddressed, byte_icmpSwapAddresses_dst _ k hk, byte_icmpSwapMacs_outside _ _ _ (by omega)]

end Sys2Proof.Claims
end

section
/-! The statements of 42_reply.md. -/

namespace Sys2Proof.Proofs

open Sys2Proof Sys2Proof.Machine Sys2Proof.Claims

/-- Settles O19: every check passes, and each field of the reply is read off the two steps of the rewrite. -/
theorem arpReplyBuilt : Obligations.ArpReplyBuilt := by
  intro s i hi hvalid hlmac
  have hexec := hvalid.exec_reply hi
  rw [arpReply_of_lmac hlmac] at hexec
  refine ⟨_, hexec, finishedTx_complete s _ rfl (by decide), complete_hostSideKept s _,
    csumResult_complete_finishTx s _, inspect_complete_finishTx s _, ?dst, ?src, ?op, ?senderMac, ?senderIp, ?targetMac,
    ?targetIp, byte_arpRewrite_outside s.buf s.latched.lmac⟩
  case op => rw [complete_buf, finishTx_buf, arpRewrite_eq, be16_arpSwapFields_op]
  all_goals
    intro k hk
    rw [complete_buf, finishTx_buf, arpRewrite_eq]
  case dst => rw [byte_arpSwapFields_outside _ _ _ (by omega), byte_icmpSwapMacs_dst _ _ k hk]
  case src => rw [byte_arpSwapFields_outside _ _ _ (by omega), byte_icmpSwapMacs_src _ _ k hk, lmacByte]
  case senderMac => rw [byte_arpSwapFields_senderMac _ _ k hk, lmacByte]
  case senderIp => rw [byte_arpSwapFields_senderIp _ _ k hk, byte_icmpSwapMacs_outside _ _ _ (by omega)]
  case targetMac => rw [byte_arpSwapFields_targetMac _ _ k hk, byte_icmpSwapMacs_outside _ _ _ (by omega)]
  case targetIp => rw [byte_arpSwapFields_targetIp _ _ k hk, byte_icmpSwapMacs_outside _ _ _ (by omega)]

/-- Settles O22: the fields are those of the rewrite's steps, which for these header lengths store to places of their
own; the header's sum is the request's. -/
theorem icmpReplyBuilt : Obligations.IcmpReplyBuilt := by
  intro s i hi hwf hvalid hlmac hihl
  have hl4 : l4 s.buf = 16 + 4 * ihl s.buf := rfl
  have hle := ihl_le s.buf
  refine ⟨_, hvalid.exec_reply hlmac hi, hvalid.finishedTx _, hvalid.txLen_le hwf, complete_hostSideKept s _,
    csumResult_complete_finishTx s _, inspect_complete_finishTx s _, ?_⟩
  rw [complete_buf, finishTx_buf]
  have hmacs k hk := byte_icmpRewrite_macs s.buf s.latched.lmac (ihl s.buf) (l4 s.buf) (icmpWords s.buf) k (by omega) hk
  have hips k hk := byte_icmpRewrite_ips s.buf s.latched.lmac (ihl s.buf) (icmpWords s.buf) k
    (show 36 ≤ l4 s.buf by omega) hk
  have hfield := be16_icmpRewrite_header s.buf s.latched.lmac (ihl s.buf) (icmpWords s.buf)
    (show 28 ≤ l4 s.buf by omega)
  refine ⟨fun k hk => (hmacs k hk).1, fun k hk => (hmacs k hk).2, fun k hk => (hips k hk).1,
    fun k hk => (hips k hk).2, ?header, ?stored, byte_icmpRewrite_type _ _ _ _ _, ?icmp,
    fun a ha => byte_icmpRewrite_outside _ _ _ _ _ a (by omega) (by omega) (by omega) (by omega)⟩
  case header => rw [hfield, checksum_icmpRewrite_zeroed _ _ _ _ hl4.ge]
  case stored =>
    have hpos := wordSum_header_pos s.buf (n := 2 * ihl s.buf) (by omega) (by omega)
    rw [hfield, checksum_icmpAddressed _ _ (by omega)]
    exact checksum_zeroed_of_validates s.buf 16 (k := 5) (by omega) (by omega) hvalid.gate.checksum hpos
  case icmp => rw [be16_icmpRewrite_checksum, checksum_icmpTyped _ _ _ _ (by omega)]

/-- Settles O23: both checksums are constructed in spans of their own, so both validate. -/
theorem icmpReplyValidates : Obligations.IcmpReplyValidates := by
  intro s t hvalid hlmac ht
  obtain rfl := Host.Outcome.next.inj ((hvalid.exec_reply hlmac (.inl rfl)).symm.trans ht)
  refine ⟨hvalid.finishedTx _, fun hihl => ?_⟩
  rw [complete_buf, finishTx_buf]
  have hl4 : l4 s.buf = 16 + 4 * ihl s.buf := rfl
  have hle := ihl_le s.buf
  obtain ⟨hwords, hwords'⟩ := hvalid.words_bounds
  obtain ⟨hsrc, hdst⟩ := be32_icmpRewrite_ips s.buf s.latched.lmac (ihl s.buf) (icmpWords s.buf)
    (show 36 ≤ l4 s.buf by omega)
  refine ⟨byte_icmpRewrite_type _ _ _ _ _, ?codeZero, hsrc, hdst, checksum_icmpRewrite_header _ _ _ _ hihl hle hl4.ge,
    checksum_icmpRewrite_icmp _ _ _ _ hwords hwords'⟩
  case codeZero =>
    rw [byte_icmpRewrite_outside _ _ _ _ _ _ (by omega) (by omega) (by omega) (by omega), hvalid.code]

/-- Settles O24: the buffer is that of the rewrite's steps; the ICMP header lies behind the MAC addresses for every
header length, and its checksum is constructed last. -/
theorem icmpReplyForEveryHeaderLength : Obligations.IcmpReplyForEveryHeaderLength := by
  intro s i hi hwf hvalid hlmac
  refine ⟨_, hvalid.exec_reply hlmac hi, hvalid.finishedTx _, hvalid.txLen_le hwf, complete_hostSideKept s _,
    csumResult_complete_finishTx s _, inspect_complete_finishTx s _, ?_⟩
  rw [complete_buf, finishTx_buf]
  have hl4 : l4 s.buf = 16 + 4 * ihl s.buf := rfl
  obtain ⟨hwords, hwords'⟩ := hvalid.words_bounds
  have hmacs k hk := byte_icmpRewrite_macs s.buf s.latched.lmac (ihl s.buf) (l4 s.buf) (icmpWords s.buf) k (by omega) hk
  exact ⟨fun k hk => (hmacs k hk).1, fun k hk => (hmacs k hk).2, rewrittenInOrder_icmpRewrite s,
    byte_icmpRewrite_type _ _ _ _ _, checksum_icmpRewrite_icmp _ _ _ _ hwords hwords',
    fun a ha => byte_icmpRewrite_outside _ _ _ _ _ a (by omega) (by omega) (by omega) (by omega)⟩

/-- Settles O30: errors, CSUM and BADCMD leave the buffer, and a reply stores to received bytes only. -/
theorem padAndTailNeverWritten : Obligations.PadAndTailNeverWritten := by
  intro i s t hi ht a ha
  have row (hrow : IsProcessRow i) : t.buf.byte a = s.buf.byte a := by
    obtain ⟨c, hc, hend⟩ := exec_processRow_ends hrow s
    obtain rfl : complete s c = t := Host.Outcome.next.inj (hc.symm.trans ht)
    rcases hend with hraised | ⟨_, hsucceeded⟩
    · exact hraised.byte a
    · exact hsucceeded.byte_outside ha
  cases i with
  | csumConstruct => exact absurd rfl hi
  | csum =>
    obtain rfl := Host.Outcome.next.inj ((exec_csum s).symm.trans ht)
    rw [complete_buf, csumCommand_buf]
  | badcmd v =>
    obtain rfl := Host.Outcome.next.inj ((exec_badcmd v s).symm.trans ht)
    rfl
  | process | ethIpv4 | ethArp | arpRequest | ipv4Icmp | ipv4Udp | icmpEchoRequest =>
    exact row (by simp [IsProcessRow])

/-- Settles O18: the received length, then the five fields in the source's order. -/
theorem arpChecksInOrder : Obligations.ArpChecksInOrder := by
  intro s i hruns h14 hfits
  have hexec := hruns.exec_respond h14 hfits
  refine ⟨fun hshort => ⟨_, hexec, failed_need s _ (by decide) hshort⟩, fun h42 => ?_⟩
  rw [arpRespond_of_received h42] at hexec
  refine ⟨?op, ?htype, ?ptype, ?hlen, ?plen⟩
  case op =>
    intro hop
    rw [arpValidate_of_op _ hop] at hexec
    exact ⟨_, hexec, failed_raise_half s .eArpOp (s.buf.be16 22) 0#32⟩
  case htype =>
    intro hop hhtype
    rw [arpValidate_of_htype _ hop hhtype] at hexec
    exact ⟨_, hexec, failed_raise_half s .eArpHtype (s.buf.be16 16) 0#32⟩
  case ptype =>
    intro hop hhtype hptype
    rw [arpValidate_of_ptype _ hop hhtype hptype] at hexec
    exact ⟨_, hexec, failed_raise_half s .eArpPtype (s.buf.be16 18) 0#32⟩
  case hlen =>
    intro hop hhtype hptype hhlen
    rw [arpValidate_of_hlen _ hop hhtype hptype hhlen] at hexec
    exact ⟨_, hexec, failed_raise_byte s .eArpHlen (s.buf.byte 20) 0#32⟩
  case plen =>
    intro hop hhtype hptype hhlen hplen
    rw [arpValidate_of_plen _ hop hhtype hptype hhlen hplen] at hexec
    exact ⟨_, hexec, failed_raise_byte s .eArpPlen (s.buf.byte 21) 0#32⟩

/-- Settles O20: the local MAC is asked for behind every other check, and E_NO_LMAC changes nothing else. -/
theorem replyNeedsLocalMac : Obligations.ReplyNeedsLocalMac := by
  intro s i hlmac
  constructor
  · intro hvalid hi
    have hexec := hvalid.exec_reply hi
    rw [arpReply_of_noLmac hlmac] at hexec
    exact ⟨_, hexec, failed_raise s .eNoLmac 0#32 0#32⟩
  · intro hvalid hi
    have hexec := hvalid.exec_echo hi
    rw [icmpEchoReply_of_noLmac hvalid.length hvalid.received hvalid.icmpChecksum hlmac] at hexec
    exact ⟨_, hexec, failed_raise s .eNoLmac 0#32 0#32⟩

/-- Settles O21: the header, the key's two fields, then the length, the whole datagram and its checksum. -/
theorem icmpChecksInOrder : Obligations.IcmpChecksInOrder := by
  intro s i hruns h34 hheader hfits
  have hexec := hruns.exec_respond h34 hheader hfits
  have hle := ihl_le s.buf
  have hlt := totalLength_lt s.buf
  refine ⟨fun hshort => ⟨_, hexec, failed_need s _ (by omega) hshort⟩, fun hicmp => ⟨?type, ?code, ?echo⟩⟩
  case type =>
    intro htype
    rw [icmpRespond_of_type hicmp htype] at hexec
    exact ⟨_, hexec, failed_raise_byte s .eIcmpType (s.buf.byte (l4 s.buf)) 0#32⟩
  case code =>
    intro htype hcode
    rw [icmpRespond_of_code hicmp htype hcode] at hexec
    exact ⟨_, hexec, failed_raise_byte s .eIcmpCode (s.buf.byte (l4 s.buf + 1)) 0#32⟩
  case echo =>
    intro htype hcode
    rw [icmpRespond_of_echo hicmp htype hcode] at hexec
    refine ⟨?length, ?datagram, ?checksum⟩
    case length =>
      intro hshort
      rw [icmpEchoReply_of_short hshort] at hexec
      exact ⟨_, hexec, failed_raise_nat s .eIcmpLen (by omega) (by omega)⟩
    case datagram =>
      intro hlen hshort
      rw [icmpEchoReply_of_truncated hlen hshort] at hexec
      exact ⟨_, hexec, failed_length s .eTrunc (by omega)⟩
    case checksum =>
      intro hlen hreceived hsum
      rw [icmpEchoReply_of_checksumFails hlen hreceived hsum] at hexec
      exact ⟨_, hexec, failed_raise_halves s .eIcmpCsum (s.buf.be16 (l4 s.buf + 2)) _⟩

end Sys2Proof.Proofs
end

section
/-! SUPPORT. How an instruction ends, in an error or in a success, that every step answers, and how a running command
comes to its end on a schedule without a reset. -/

namespace Sys2Proof.Machine

/-! ### Errors change nothing but the report -/

theorem Succeeded.not_isError {s : State} {c : Completion} (h : Succeeded s c) : c.code.isError = false := by
  rcases h with ⟨_, _, rfl⟩ | ⟨_, _, _, _, rfl⟩ | ⟨_, _, rfl⟩ <;> rfl

/-- Every instruction raises an error or ends with a success code. -/
theorem exec_raised_or_success (i : Instr) (s : State) : ∃ c, exec i s = .next (complete s c) ∧
    (Raised s c ∨ c.code.isError = false) := by
  obtain ⟨c, hc, hend⟩ := exec_ends i s
  refine ⟨c, hc, ?_⟩
  rcases hend with (hraised | ⟨_, hsuccess⟩) | rfl | rfl
  · exact .inl hraised
  · exact .inr hsuccess.not_isError
  · exact (csumCommand_ends s).imp_right fun ⟨_, he⟩ => by rw [he]; rfl
  · exact (csumConstructCommand_ends s).imp_right fun ⟨_, _, he⟩ => by rw [he]; rfl

/-- A command that ends with ERR set has raised its error (60_exceptions.md R234). -/
theorem exec_raised_of_err {i : Instr} {s t : State} (h : exec i s = .next t) (herr : t.err = true) :
    ∃ c, t = complete s c ∧ Raised s c := by
  obtain ⟨c, hc, hend⟩ := exec_raised_or_success i s
  obtain rfl : complete s c = t := Host.Outcome.next.inj (hc.symm.trans h)
  exact ⟨c, rfl, hend.resolve_right fun hsuccess => absurd (hsuccess.symm.trans herr) Bool.false_ne_true⟩

/-! ### Every step answers -/

theorem engineTurn_answers (s : State) : ∃ t, engineTurn s = .next t := by
  rcases engineTurn_cases s with hrest | ⟨_, _, hexec⟩
  · exact ⟨s, hrest⟩
  · obtain ⟨c, hc, _⟩ := exec_ends (decodeCommand s.latched.cmd) s
    exact ⟨complete s c, hexec.trans hc⟩

theorem runEvent_answers (s : State) (e : Event) : ∃ t, runEvent s e = .next t := by
  cases e with
  | engine => exact engineTurn_answers s
  | write | read | resetLine => exact ⟨_, rfl⟩

/-! ### A running command comes to its end -/

/-- The command that runs in `s` has completed in `t`, with the operands it latched (60_exceptions.md R233). -/
structure CommandCompleted (s t : State) : Prop where
  fsm : t.fsm = .idle
  done : t.done = true
  result : t.result ≠ .none
  latched : t.latched = s.latched

theorem deassertReset_self {s : State} (h : s.inReset = false) : deassertReset s = s := by
  rw [deassertReset, ← h]

/-- The engine's turn completes the running command (70_reset_and_hazards.md R272). -/
theorem step_engine_completes {s : State} {rest : List Event} (hr : s.inReset = false) (hf : s.fsm = .busy)
    (hs : s.schedule = [] ∨ s.schedule = .engine :: rest) : ∃ t, step s = .next t ∧ CommandCompleted s t := by
  rw [step_engine s rest hs, engineTurn_busy (s.withSchedule s.schedule.tail) hr hf]
  obtain ⟨c, hc, hreport⟩ := exec_reports (decodeCommand s.latched.cmd) (s.withSchedule s.schedule.tail)
  exact ⟨_, hc, rfl, rfl, hreport.code, rfl⟩

/-- Any other event that asserts no reset leaves the running command as it was. -/
theorem step_busy_kept {s : State} {e : Event} {rest : List Event} (hr : s.inReset = false) (hf : s.fsm = .busy)
    (hs : s.schedule = e :: rest) (hengine : e ≠ .engine) (hreset : ¬ Claims.AssertsReset s.params e) :
    ∃ t, step s = .next t ∧ AccessKept (s.withSchedule rest) t := by
  have access_kept (haccess : Claims.IsAccess e) : ∃ t, step s = .next t ∧ AccessKept (s.withSchedule rest) t := by
    obtain ⟨t, hstep, htaken⟩ := step_access haccess hs
    exact ⟨t, hstep, htaken.kept (.inr hf)⟩
  cases e with
  | write size addr v => exact access_kept (.inl ⟨size, addr, v, rfl⟩)
  | read size addr => exact access_kept (.inr ⟨size, addr, rfl⟩)
  | engine => exact absurd rfl hengine
  | resetLine level =>
    have hlevel : assertsReset s.params.resetKind level = false :=
      Bool.eq_false_of_not_eq_true fun hl => hreset ⟨level, rfl, hl⟩
    have hstep := step_deasserts s rest level hs hlevel
    rw [deassertReset_self (s := s.withSchedule rest) hr] at hstep
    exact ⟨_, hstep, AccessKept.refl _⟩

/-- A running command completes within one step more than the events pending, unless one of them asserts reset: each
event but the engine's leaves it running, and past the last one the engine's turn comes (log entry 2). -/
theorem run_completes (es : List Event) (s : State) (hs : s.schedule = es) (hr : s.inReset = false)
    (hf : s.fsm = .busy) (hreset : ∀ e, e ∈ es → ¬ Claims.AssertsReset s.params e) :
    ∃ (k : Nat) (t : State), k ≤ es.length + 1 ∧ Sys2Proof.core.run k s = .next t ∧ CommandCompleted s t := by
  induction es generalizing s with
  | nil =>
    obtain ⟨t, hstep, ht⟩ := step_engine_completes (rest := []) hr hf (.inl hs)
    exact ⟨1, t, le_rfl, (run_succ_of_step s t 0 hstep).trans (run_zero t), ht⟩
  | cons e rest ih =>
    by_cases hengine : e = .engine
    · obtain ⟨t, hstep, ht⟩ := step_engine_completes hr hf (.inr (hengine ▸ hs))
      exact ⟨1, t, by simp, (run_succ_of_step s t 0 hstep).trans (run_zero t), ht⟩
    · obtain ⟨u, hstep, hkept⟩ := step_busy_kept hr hf hs hengine (hreset e List.mem_cons_self)
      have hparams : u.params = s.params := hkept.params
      obtain ⟨k, t, hk, hrun, ht⟩ := ih u hkept.schedule (hkept.inReset.trans hr) (hkept.results.fsm.trans hf)
        fun e' he' => hparams ▸ hreset e' (List.mem_cons_of_mem e he')
      exact ⟨k + 1, t, Nat.succ_le_succ hk, (run_succ_of_step s u k hstep).trans hrun,
        { ht with latched := ht.latched.trans hkept.latched }⟩

end Sys2Proof.Machine
end

section
/-! The statements of 60_exceptions.md. -/

namespace Sys2Proof.Proofs

open Sys2Proof Sys2Proof.Machine Sys2Proof.Claims

/-- Settles O28: ERR is set by `raise` only, which reports and touches nothing else. -/
theorem errorsLeaveTheBuffer : Obligations.ErrorsLeaveTheBuffer := by
  intro i s t h herr
  obtain ⟨_, rfl, code, info, aux, _, rfl⟩ := exec_raised_of_err h herr
  obtain ⟨⟨_, _, htxReq, _, _, _, _, htxLen⟩, _, hbytes, hcsum, hinspect⟩ := failed_raise s code info aux
  exact ⟨hbytes, htxReq, htxLen, hcsum, hinspect⟩

/-- Settles O43, by induction on the events pending. -/
theorem everyAcceptedCommandCompletes : Obligations.EveryAcceptedCommandCompletes := by
  intro s hr hf hreset
  obtain ⟨k, t, hk, hrun, ht⟩ := run_completes s.schedule s rfl hr hf hreset
  exact ⟨k, t, hk, hrun, ht.fsm, ht.done, ht.result, ht.latched⟩

/-- Settles O5: the engine's turn answers, and so does every event. -/
theorem everyStepAnswers : Obligations.EveryStepAnswers := by
  intro s
  cases hs : s.schedule with
  | nil => exact step_nil s hs ▸ engineTurn_answers s
  | cons e rest => exact step_cons s e rest hs ▸ runEvent_answers (s.withSchedule rest) e

/-- Settles O36: each number by its definition, and the error class as a comparison of numbers. -/
theorem resultCodeNumbers : Obligations.ResultCodeNumbers :=
  ⟨rfl, rfl, rfl, rfl, rfl, rfl, rfl, rfl, rfl, rfl, rfl, rfl, rfl, rfl, rfl, rfl, rfl, rfl, rfl, rfl, rfl, rfl, rfl,
    rfl, rfl, isError_iff⟩

end Sys2Proof.Proofs
end

section
/-! SUPPORT. The machine while a command runs: accesses to the buffer, the cleared report, what a completion is computed
from, and that host accesses leave it as it was. -/

namespace Sys2Proof.Machine

/-! ### The buffer while BUSY -/

section
variable (s : State) {size i : Nat} (hr : s.inReset = false) (hf : s.fsm = .busy)
  (ha : accessWf size (bufferBase + i) = true) (hi : i < s.params.bufSize)
include hr hf ha hi

/-- While BUSY a write to the buffer is refused (70_reset_and_hazards.md R265). -/
theorem hostWrite_buffer_busy (v : Word) : hostWrite s size (bufferBase + i) v = refuseAccess s := by
  rw [hostWrite_buffer s size i v hr ha, bufSpaceWrite, if_neg (Nat.not_le.mpr hi), hf]

/-- While BUSY a read of the buffer answers a free value (70_reset_and_hazards.md R266). -/
theorem hostRead_buffer_busy : hostRead s size (bufferBase + i) =
    { s with reply := .data (drawLanes s.draws size), draws := s.draws + 1 } := by
  rw [hostRead_buffer s size i hr ha, bufSpaceRead, if_neg (Nat.not_le.mpr hi), hf]

end

/-- While BUSY no host write reaches the buffer (70_reset_and_hazards.md R265). -/
theorem buf_hostWrite_busy (s : State) (size off : Nat) (v : Word) (hf : s.fsm = .busy) :
    (hostWrite s size off v).buf = s.buf := by
  rcases hostWrite_cases s size off v with
    ⟨_, he⟩ | ⟨_, _, ⟨_, he⟩ | ⟨r, hr, _, he⟩ | ⟨_, he⟩ | ⟨hidle, _⟩⟩
  case inr.inr.inr.inr => exact absurd (hidle.symm.trans hf) (by decide)
  all_goals rw [he]
  case inl => rfl
  case inr.inl => exact buf_cmdWrite s v
  case inr.inr.inl => exact (regWrite_operands s v r hr).buf

/-! ### The report while BUSY -/

/-- Everything that a completion reports is cleared (10_state.md R34; 60_exceptions.md R238). -/
structure ReportCleared (s : State) : Prop where
  done : s.done = false
  txReq : s.txReq = false
  err : s.err = false
  result : s.result = .none
  txLen : s.txLen = 0#17
  errInfo : s.errInfo = 0#32
  errAux : s.errAux = 0#32

/-- Under the invariant the report is cleared as long as a command runs (70_reset_and_hazards.md R267). -/
theorem State.Inv.reportCleared {s : State} (h : s.Inv) (hf : s.fsm = .busy) : ReportCleared s := by
  obtain ⟨hdone, hresult⟩ := h.busyCleared hf
  have herr : s.err = false := by rw [h.errIffCode, hresult]; rfl
  have htxReq : s.txReq = false := by simpa [hresult] using h.txReqIffReply
  obtain ⟨hinfo, haux⟩ := h.reportOnlyOnError herr
  exact ⟨hdone, htxReq, herr, hresult, h.txLenOnlyOnReply htxReq, hinfo, haux⟩

/-- STATUS of a running command: BUSY, and OVR where a CMD write was ignored (10_state.md R35, R39). -/
theorem ReportCleared.statusWord_busy {s : State} (h : ReportCleared s) (hf : s.fsm = .busy) :
    statusWord s = if s.ovr then 0x00000009#32 else 0x00000001#32 := by
  cases hovr : s.ovr <;>
    simp [statusWord, State.busy, ResultCode.code, h.done, h.txReq, h.err, h.result, hf, hovr]

/-- A register that takes no free value answers its field on the bus. -/
theorem reply_register (s : State) (r : Reg) {w : Word} (hr : s.inReset = false) (hw : regRead s r = (w, 0)) :
    (hostRead s 4 r.offset).reply = .data w :=
  congrArg State.reply (answers_register s r hr hw)

/-! ### What a completion is computed from -/

/-- The completion that each instruction computes. -/
def completionOf (s : State) : Instr → Completion
  | .process => processCommand s
  | .csum => csumCommand s
  | .csumConstruct => csumConstructCommand s
  | .badcmd value => raise s .eBadcmd value 0#32
  | .ethIpv4 => ethEntry s (ipv4Dispatch s)
  | .ethArp => ethEntry s (arpRespond s)
  | .arpRequest => ethEntry s (need s 42 (arpReply s))
  | .ipv4Icmp => ipv4Entry s (icmpRespond s)
  | .ipv4Udp => ipv4Entry s (udpInspect s)
  | .icmpEchoRequest => ipv4Entry s (need s (22 + 4 * ihl s.buf) (icmpEchoReply s))

theorem exec_eq_completionOf (i : Instr) (s : State) : exec i s = .next (complete s (completionOf s i)) := by
  cases i <;> rfl

/-- The state with everything at reset but what a running command reads: the parameters, the buffer and `L`
(10_state.md R53; 20_memory.md R91). -/
def engineView (s : State) : State := { State.resetWith s.params with buf := s.buf, latched := s.latched }

/-- No stage of a command reads anything else of the state. -/
theorem completionOf_engineView (s : State) (i : Instr) : completionOf (engineView s) i = completionOf s i := by
  cases i <;> rfl

/-- Two states with the same parameters, buffer and `L` compute the same completion. -/
theorem completionOf_congr {s t : State} (hparams : t.params = s.params) (hbuf : t.buf = s.buf)
    (hlatched : t.latched = s.latched) (i : Instr) : completionOf t i = completionOf s i := by
  have hview : engineView t = engineView s := by rw [engineView, hparams, hbuf, hlatched, engineView]
  rw [← completionOf_engineView t, hview, completionOf_engineView]

/-- The engine's turn completes the running command with what it computes (70_reset_and_hazards.md R272). -/
theorem step_engine_completionOf {s : State} {rest : List Event} (hr : s.inReset = false) (hf : s.fsm = .busy)
    (hs : s.schedule = .engine :: rest) : step s = .next
      (complete (s.withSchedule rest) (completionOf (s.withSchedule rest) (decodeCommand s.latched.cmd))) :=
  calc step s
    _ = engineTurn (s.withSchedule rest) := step_cons s _ rest hs
    _ = exec (decodeCommand s.latched.cmd) (s.withSchedule rest) := engineTurn_busy (s.withSchedule rest) hr hf
    _ = _ := exec_eq_completionOf _ _

/-- One completion on states with the same results leaves the same results (60_exceptions.md R233). -/
theorem sameResults_complete {s t : State} (h : Claims.SameResults t s) (c : Completion) :
    Claims.SameResults (complete t c) (complete s c) where
  fsm := rfl
  done := rfl
  txReq := rfl
  err := rfl
  result := rfl
  txLen := rfl
  errInfo := rfl
  errAux := rfl
  csumResult := congrArg c.csum.getD h.csumResult
  inspect := congrArg c.inspect.getD h.inspect

/-! ### Runs of accesses while BUSY -/

theorem AccessTaken.buf_busy {u t : State} {e : Event} (h : AccessTaken u e t) (hf : u.fsm = .busy) :
    t.buf = u.buf := by
  cases h with
  | outside => rfl
  | write size off v => exact buf_hostWrite_busy u size off v hf
  | read size off => exact buf_hostRead u size off

/-- A run over host accesses while BUSY leaves the buffer as it was, every listed byte of it. -/
theorem run_accesses_buf_busy {accesses rest : List Event} {s t : State} (hs : s.schedule = accesses ++ rest)
    (hf : s.fsm = .busy) (h : ∀ e, e ∈ accesses → Claims.IsAccess e)
    (hrun : Sys2Proof.core.run accesses.length s = .next t) : t.buf = s.buf := by
  induction accesses generalizing s with
  | nil => exact congrArg State.buf (Host.Outcome.next.inj hrun).symm
  | cons e es ih =>
    obtain ⟨u, hstep, htaken⟩ := step_access (h e List.mem_cons_self) hs
    have hu : AccessKept (s.withSchedule (es ++ rest)) u := htaken.kept (.inr hf)
    have hrest : Sys2Proof.core.run es.length u = .next t := (run_succ_of_step s u es.length hstep).symm.trans hrun
    exact (ih hu.schedule (hu.results.fsm.trans hf) (fun e' he' => h e' (List.mem_cons_of_mem e he')) hrest).trans
      (htaken.buf_busy hf)

/-- A run that reaches a state goes on from it. -/
theorem run_add_of_run {M : Host.Core} {s u : M.State} {j : Nat} (k : Nat) (h : M.run j s = .next u) :
    M.run (j + k) s = M.run k u := by
  induction j generalizing s with
  | zero => rw [Nat.zero_add, Host.Outcome.next.inj h]
  | succ j ih =>
    obtain ⟨s', hstep, hrest⟩ := run_succ_inv h
    rw [Nat.succ_add, run_succ M s s' (j + k) hstep, ih hrest]

end Sys2Proof.Machine
end

section
/-! The statements of 70_reset_and_hazards.md. -/

namespace Sys2Proof.Proofs

open Sys2Proof Sys2Proof.Machine Sys2Proof.Claims

/-- Settles O40, by the two accesses to the buffer while BUSY. -/
theorem bufferAccessWhileBusy : Obligations.BufferAccessWhileBusy := by
  intro s size off v hr hf hallowed hbase hend
  obtain ⟨i, rfl⟩ := Nat.exists_eq_add_of_le hbase
  have ha : accessWf size (bufferBase + i) = true := (accessWf_iff size _).mpr hallowed
  have hi : i < s.params.bufSize := Nat.lt_of_add_lt_add_left hend
  exact ⟨hostWrite_buffer_busy s hr hf ha hi v, _, hostRead_buffer_busy s hr hf ha hi⟩

/-- Settles O42: the invariant keeps the report cleared, and each register answers its field. -/
theorem registersReadWhileBusy : Obligations.RegistersReadWhileBusy := by
  intro s hinv hr hf
  have hclear := hinv.reportCleared hf
  refine ⟨?status, ?txLen, ?errInfo, ?errAux⟩
  case status => exact reply_register s .status hr (congrArg (·, 0) (hclear.statusWord_busy hf))
  case txLen => exact reply_register s .txLen hr (by rw [regRead, hclear.txLen]; rfl)
  case errInfo => exact reply_register s .errInfo hr (congrArg (·, 0) hclear.errInfo)
  case errAux => exact reply_register s .errAux hr (congrArg (·, 0) hclear.errAux)

/-- Settles O45: while BUSY the accesses change nothing that the completion is computed from, and none of the results
that it may leave. -/
theorem resultsIgnoreInterleaving : Obligations.ResultsIgnoreInterleaving := by
  intro s accesses rest hr hf haccess hs
  obtain ⟨u, hrun, hkept, _⟩ := run_accesses accesses (.engine :: rest) s hs fun e he => ⟨haccess e he, .inr hf⟩
  have hbuf := run_accesses_buf_busy hs hf haccess hrun
  have hparams : u.params = s.params := hkept.params
  have hlatched : u.latched = s.latched := hkept.latched
  have hresults : SameResults (u.withSchedule rest) s := { hkept.results with }
  have hstep := step_engine_completionOf (hkept.inReset.trans hr) (hkept.results.fsm.trans hf) hkept.schedule
  rw [hlatched, completionOf_congr (t := u.withSchedule rest) hparams hbuf hlatched] at hstep
  refine ⟨_, _, ?run, rfl, exec_eq_completionOf _ s, fun _ => ⟨sameResults_complete hresults _, rfl⟩⟩
  case run => rw [run_add_of_run 1 hrun, run_succ_of_step u _ 0 hstep, run_zero]

end Sys2Proof.Proofs
end
